-- ==== Sys2Proof/Word.lean ====
section
/-! DEFINITION. The word types of the engine (rule R9) and a group of nine like things (rule R26). -/

namespace Sys2Proof

/-- The unit of every transfer, `BYTE_W` = 8 bits (rule R9). -/
abbrev Byte := BitVec 8

/-- A Register Address, `ADDR_W` = 7 bits (rules R9, R50). -/
abbrev RegAddr := BitVec 7

/-- A request word, 18 bits (rule R80). -/
abbrev ReqWord := BitVec 18

/-- A value of `OUT_W` = 32 bits (rule R9): a decoded axis value in two's complement. -/
abbrev Word32 := BitVec 32

/-- Nine like things, index 0 to 8: the receive buffer and the Raw Sample Triplet (rules R26, R89). -/
structure Nine (α : Type) where
  b0 : α
  b1 : α
  b2 : α
  b3 : α
  b4 : α
  b5 : α
  b6 : α
  b7 : α
  b8 : α
  deriving DecidableEq, Repr, Inhabited

/-- The nine things, index 0 first: for bytes, the order in which they arrived (rule R26). -/
def Nine.toList {α : Type} (n : Nine α) : List α :=
  [n.b0, n.b1, n.b2, n.b3, n.b4, n.b5, n.b6, n.b7, n.b8]

/-- The same thing nine times. -/
def Nine.const {α : Type} (a : α) : Nine α := ⟨a, a, a, a, a, a, a, a, a⟩

/-- A function applied to each of the nine. -/
def Nine.map {α β : Type} (f : α → β) (n : Nine α) : Nine β :=
  ⟨f n.b0, f n.b1, f n.b2, f n.b3, f n.b4, f n.b5, f n.b6, f n.b7, f n.b8⟩

end Sys2Proof
end

