-- ==== Sys2Proof/Config.lean ====
section
/-! DEFINITION. What an implementation fixes (rules R9, R10, R36) and the free values of the environment (rules R35, R64). -/

namespace Sys2Proof

/-- What one transport call reports (rules R32, R33, R205). Every cause of failure is the one `fail`. -/
inductive Status where
  | ok
  | fail
  deriving DecidableEq, Repr, Inhabited

/-- One answer of the transport: its status and the nine bytes that a receive which reports `ok` would deliver.
A receive of one byte uses the first of them, a transmit none (rules R32, R33). -/
structure Answer where
  status : Status
  bytes : Nine Byte
  deriving DecidableEq, Repr, Inhabited

/-- `RECON_MODE`: the two readings of the reconstruction formula (rules R10, R174, R175; 90_conflicts.md C1). -/
inductive ReconMode where
  | concatShift
  | literal
  deriving DecidableEq, Repr, Inhabited

/-- The Device Handle (rule R36). The spec leaves the three types open; a number stands for each identity
(DESIGN CHOICE, safe, log entry 3). -/
structure Handle where
  bus : Nat
  sel : Nat
  timeout : Nat
  deriving DecidableEq, Repr, Inhabited

/-- The open parameters of rule R10, constants of a run (rules R10, R37).
`dataBase` is below 120, so that `DATA_BASE + 8 <= 127` holds of every configuration (rule R11; DESIGN CHOICE, safe, log
entry 13). -/
structure Params where
  idAddr : RegAddr
  idValue : Byte
  dataBase : Fin 120
  odrAddr : RegAddr
  rangeAddr : RegAddr
  pwrAddr : RegAddr
  measureEnc : Byte
  standbyEnc : Byte
  odrSet : List Byte
  rangeSet : List Byte
  intFlags : List Byte
  resetAddr : RegAddr
  recon : ReconMode
  deriving DecidableEq, Repr, Inhabited

/-- `BURST_LEN` (rule R9). -/
def Config.burstLen : Nat := 9

/-- `SIGN_MASK` (rule R9). -/
def Config.signMask : Word32 := 0x7FFFF#32

/-- `SIGN_BIAS` (rule R9). -/
def Config.signBias : Word32 := 0x80000#32

/-- `RESET_CMD`, a constant no rule uses (rule R9). -/
def Config.resetCmd : Byte := 0x52#8

/-- FREE VALUE: the answer to the n-th transport call that no listed answer covers (rules R35, R205).
DESIGN CHOICE of its form, safe: no proof can see a value of it (log entry 2). -/
opaque Config.draw : Nat → Answer

/-- FREE VALUE: what a device register holds after a failed write (rule R64). DESIGN CHOICE of its form, safe: no proof
can see a value of it (log entry 7). -/
opaque Config.devContent : Nat → Byte

/-- OPEN: the register-map constants of the device on the bus (rule R10). DESIGN CHOICE, safe: no proof can
see a value of it (log entry 3). -/
opaque Config.params : Params

/-- OPEN: the handle the host supplied before the first request (rules R36, R233). DESIGN CHOICE, safe: no proof
can see a value of it (log entry 3). -/
opaque Config.handle : Handle

end Sys2Proof
end

