-- ==== Sys2Proof/Syntax.lean ====
section
/-! DEFINITION. The seven operations of rule R82, each with the request fields it uses (rule R83). -/

namespace Sys2Proof

/-- One operation request. A field an operation ignores (rule R94) is no argument of its constructor. -/
inductive Instr where
  /-- `WRREG`: write one device register (rule R121). -/
  | wrreg (addr : RegAddr) (data : Byte)
  /-- `RDREG`: read one device register (rule R122). -/
  | rdreg (addr : RegAddr)
  /-- `SETODR`: set the output data rate (rule R142). -/
  | setodr (data : Byte)
  /-- `SETRNG`: set the measurement range (rule R143). -/
  | setrng (data : Byte)
  /-- `SETMEAS`: set continuous-measurement mode (rule R144). -/
  | setmeas
  /-- `CHKID`: verify the device identity (rule R160). -/
  | chkid
  /-- `RDXYZ`: read and decode one sample of three axes (rule R171). -/
  | rdxyz
  deriving DecidableEq, Repr

end Sys2Proof
end

