-- ==== Sys2Proof/WellFormed.lean ====
section
/-! DEFINITION. What is well formed: an operation number, an assembler line (rule R95), a set of parameters (rules R10, R57). -/

namespace Sys2Proof

/-- The operation number of rule R82. -/
def Instr.opNumber : Instr → BitVec 3
  | .wrreg _ _ => 0b000#3
  | .rdreg _ => 0b001#3
  | .setodr _ => 0b010#3
  | .setrng _ => 0b011#3
  | .setmeas => 0b100#3
  | .chkid => 0b101#3
  | .rdxyz => 0b110#3

/-- The one operation number that names no operation (rule R98). -/
def opReserved : BitVec 3 := 0b111#3

/-- An operation number that names an operation (rules R82, R98). -/
def opWellFormed (op : BitVec 3) : Bool := op != opReserved

/-- An instruction whose operation number names an operation. Operand widths are in the types of `Instr`. -/
def Instr.wellFormed (i : Instr) : Bool := opWellFormed i.opNumber

/-- A line of the spec's assembler with its numbers as written (rule R95). -/
inductive AsmLine where
  | wrreg (a v : Nat)
  | rdreg (a : Nat)
  | setodr (v : Nat)
  | setrng (v : Nat)
  | setmeas
  | chkid
  | rdxyz
  deriving DecidableEq, Repr

/-- The operand ranges of rule R95: an address in 0..127, a value in 0..255. -/
def AsmLine.wellFormed : AsmLine → Bool
  | .wrreg a v => decide (a < 128) && decide (v < 256)
  | .rdreg a => decide (a < 128)
  | .setodr v => decide (v < 256)
  | .setrng v => decide (v < 256)
  | .setmeas => true
  | .chkid => true
  | .rdxyz => true

/-- No two of the listed values are equal. -/
def allDistinct {α : Type} [DecidableEq α] : List α → Bool
  | [] => true
  | a :: rest => !rest.contains a && allDistinct rest

/-- The counts rule R10 gives: eleven rates, three ranges, four interrupt flags; and the four distinct registers of
rule R57. No rule of the engine needs this; it is a check on a configuration. -/
def Params.wellFormed (p : Params) : Bool :=
  p.odrSet.length == 11 && allDistinct p.odrSet && p.rangeSet.length == 3 && allDistinct p.rangeSet &&
    p.intFlags.length == 4 && allDistinct [p.idAddr, p.odrAddr, p.rangeAddr, p.pwrAddr]

end Sys2Proof
end

