-- ==== Sys2Proof/Decode.lean ====
section
/-! DEFINITION. Request words, command bytes and packed responses: decoders and encoders (30_encoding.md). -/

namespace Sys2Proof

/-- `OP`, bits 17:15 of a request word (rule R80). -/
def opField (w : ReqWord) : BitVec 3 := w.extractLsb' 15 3

/-- `ADDR`, bits 14:8 of a request word (rule R80). -/
def addrField (w : ReqWord) : RegAddr := w.extractLsb' 8 7

/-- `DATA`, bits 7:0 of a request word (rule R80). -/
def dataField (w : ReqWord) : Byte := w.extractLsb' 0 8

/-- The operation of a request word, by `OP` alone (rule R82); the reserved number names none (rule R98). -/
def decode (w : ReqWord) : Option Instr :=
  match (opField w).toNat with
  | 0 => some (.wrreg (addrField w) (dataField w))
  | 1 => some (.rdreg (addrField w))
  | 2 => some (.setodr (dataField w))
  | 3 => some (.setrng (dataField w))
  | 4 => some .setmeas
  | 5 => some .chkid
  | 6 => some .rdxyz
  | _ => none

/-- A request word put together from its three fields (rule R80). -/
def packRequest (op : BitVec 3) (a : RegAddr) (d : Byte) : ReqWord := op ++ a ++ d

/-- The request word an assembler writes: zeros in the ignored fields (rules R94, R95). -/
def encode : Instr → ReqWord
  | .wrreg a d => packRequest 0b000#3 a d
  | .rdreg a => packRequest 0b001#3 a 0#8
  | .setodr d => packRequest 0b010#3 0#7 d
  | .setrng d => packRequest 0b011#3 0#7 d
  | .setmeas => packRequest 0b100#3 0#7 0#8
  | .chkid => packRequest 0b101#3 0#7 0#8
  | .rdxyz => packRequest 0b110#3 0#7 0#8

/-- The operation an assembler line names; a line out of range names none (rules R87, R95). -/
def AsmLine.assemble (l : AsmLine) : Option Instr :=
  if l.wellFormed then
    match l with
    | .wrreg a v => some (.wrreg (BitVec.ofNat 7 a) (BitVec.ofNat 8 v))
    | .rdreg a => some (.rdreg (BitVec.ofNat 7 a))
    | .setodr v => some (.setodr (BitVec.ofNat 8 v))
    | .setrng v => some (.setrng (BitVec.ofNat 8 v))
    | .setmeas => some .setmeas
    | .chkid => some .chkid
    | .rdxyz => some .rdxyz
  else none

/-- `DATA_BASE` as a Register Address (rule R10). -/
def Params.dataAddr (p : Params) : RegAddr := BitVec.ofNat 7 p.dataBase.val

/-- The address a 7-bit number gives `DATA_BASE`, refused when the nine burst addresses do not exist (rule R11). -/
def Params.dataBase? (a : RegAddr) : Option (Fin 120) :=
  if h : a.toNat < 120 then some ⟨a.toNat, h⟩ else none

/-- The instruction in a table word. A request reaches the engine whole, as 18 wires (rules R54, R80), so the word's
low 18 bits are the request, whatever width the table gives the row (DEDUCED, safe, log entry 12). -/
def decodeTableWord (_nbits w : Nat) : Option Instr := decode (BitVec.ofNat 18 w)

/-- One row of the opcode table: its `match` and its `mask` (rule R97). -/
structure OpRow where
  pattern : ReqWord
  mask : ReqWord
  deriving DecidableEq, Repr

/-- The seven rows of the opcode table, under the one mask `0x38000` (rule R97). -/
def opcodeTable : List OpRow :=
  [⟨0x00000#18, 0x38000#18⟩, ⟨0x08000#18, 0x38000#18⟩, ⟨0x10000#18, 0x38000#18⟩, ⟨0x18000#18, 0x38000#18⟩,
   ⟨0x20000#18, 0x38000#18⟩, ⟨0x28000#18, 0x38000#18⟩, ⟨0x30000#18, 0x38000#18⟩]

/-- A word that a row matches. -/
def OpRow.accepts (r : OpRow) (w : ReqWord) : Bool := (w &&& r.mask) == r.pattern

/-- The direction of a transaction (rule R84). -/
inductive Dir where
  | read
  | write
  deriving DecidableEq, Repr

/-- The direction bit: `DIR_READ` = 1, `DIR_WRITE` = 0 (rule R9). -/
def Dir.bit : Dir → BitVec 1
  | .read => 1#1
  | .write => 0#1

/-- The command byte `dir | (zext_8(a) << 1)` (rule R84). -/
def commandByte (dir : Dir) (a : RegAddr) : Byte := dir.bit.setWidth 8 ||| (a.setWidth 8 <<< 1)

/-- The address in a command byte, bits 7:1 (rules R84, R97). -/
def commandAddr (c : Byte) : RegAddr := c.extractLsb' 1 7

/-- The direction in a command byte, bit 0 (rules R84, R97). -/
def commandDir (c : Byte) : Dir := if c.getLsbD 0 then .read else .write

end Sys2Proof
end

