-- ==== Sys2Proof/Machine/State.lean ====
section
/-! DEFINITION. Everything the spec gives the engine, its host, its transport and its device, as plain data (10_state.md). -/

namespace Sys2Proof.Machine

/-- Which transaction of the operation runs: `k` in {1, 2} (rule R27). -/
inductive TxnIndex where
  | one
  | two
  deriving DecidableEq, Repr

/-- The next step inside a transaction (rule R27). -/
inductive SubPhase where
  | sel
  | cmd
  | pay
  | relOk
  | relFail
  deriving DecidableEq, Repr

/-- The sequencer phase: `IDLE` or `(k, s)`, eleven values (rules R27, R43). -/
inductive Phase where
  | idle
  | busy (k : TxnIndex) (p : SubPhase)
  deriving DecidableEq, Repr

/-- The logical state of the select line (rules R28, R34). -/
inductive SelLine where
  | deasserted
  | asserted
  deriving DecidableEq, Repr

/-- The Operation Result (rule R92). `genericError` keeps its code and is produced by nothing (rules R93, R202; DESIGN CHOICE,
safe, log entry 15). -/
inductive Result where
  | success
  | genericError
  | busError
  | readbackMismatch
  | identityMismatch
  deriving DecidableEq, Repr

/-- The response record (rule R22). `none` is the spec's own `no value` (rules R23, R24; DEDUCED, safe, log
entry 10). -/
structure Response where
  result : Option Result
  rdata : Option Byte
  x : Option Word32
  y : Option Word32
  z : Option Word32
  deriving DecidableEq, Repr

/-- The five fields of the response record, by name (rule R22). -/
inductive RespField where
  | result
  | rdata
  | x
  | y
  | z
  deriving DecidableEq, Repr

/-- What a host gets when it reads a response field (rule R22). -/
inductive FieldValue where
  | result (r : Result)
  | byte (b : Byte)
  | axis (v : Word32)
  deriving DecidableEq, Repr

/-- The length of a receive: 1 or 9 (rule R33). -/
inductive RxLen where
  | one
  | nine
  deriving DecidableEq, Repr

/-- One bus event (rule R29). `bs` is `none` when the receive failed. -/
inductive Event where
  | selA
  | selD
  | tx (bytes : List Byte) (st : Status)
  | rx (n : Nat) (st : Status) (bs : Option (List Byte))
  deriving DecidableEq, Repr

/-- One call of a primitive at the engine's boundary, with its arguments (rules R32, R33, R34, R117). -/
inductive Call where
  | assertSel (sel : Nat)
  | deassertSel (sel : Nat)
  | transmit (bus : Nat) (bytes : List Byte) (timeout : Nat)
  | receive (bus : Nat) (len : Nat) (timeout : Nat)
  deriving DecidableEq, Repr

/-- One move of the host between operations (rules R30, R95, R239). -/
inductive HostMove where
  /-- Present a request word (rule R30). -/
  | request (w : ReqWord)
  /-- Read a field of the response record (rules R22, R24). -/
  | read (f : RespField)
  /-- `if RESULT /= Success then stop` (rule R95). -/
  | stopUnlessSuccess
  deriving DecidableEq, Repr

/-- One event at the host's side: `Req(word)` and `Resp(record)` of rule R29, and a field the host read. -/
inductive HostEvent where
  | req (w : ReqWord)
  | resp (r : Response)
  | got (f : RespField) (v : FieldValue)
  deriving DecidableEq, Repr

/-- Which device answers a receive: an oracle (rule R35) or the ideal register file (rule R62). -/
inductive DevMode where
  | oracle
  | ideal
  deriving DecidableEq, Repr

/-- The state of a run. -/
structure State where
  /-- The sequencer phase (rule R27). -/
  phase : Phase
  /-- The select line as last driven (rule R28). -/
  sel : SelLine
  /-- The latched request; `none` is `no value` (rules R25, R42). -/
  req : Option ReqWord
  /-- The receive buffer; `none` is `no value` (rule R26). -/
  rx : Nine (Option Byte)
  /-- The response record (rule R22). -/
  resp : Response
  /-- The event trace (rule R29). -/
  trace : List Event
  /-- The calls made at the boundary (rules R32, R33, R34, R117; DESIGN CHOICE, safe, log entry 5). -/
  calls : List Call
  /-- The Device Handle (rule R36). -/
  handle : Handle
  /-- The register-map constants (rules R10, R37). -/
  params : Params
  /-- The host's coming moves (rules R30, R239; DESIGN CHOICE, safe, log entry 4). -/
  port : List HostMove
  /-- The events at the host's side (rule R29). -/
  hostLog : List HostEvent
  /-- The transport's coming answers, as inputs (rules R32, R33, R35). -/
  answers : List Answer
  /-- The MODEL'S OWN field: how many free values have been drawn (DESIGN CHOICE, safe, log entry 2). -/
  draws : Nat
  /-- Which device is on the bus (rules R35, R62). -/
  devMode : DevMode
  /-- The ideal device's `dev[0..127]` (rule R62), in canonical form. -/
  dev : List Host.Cell
  /-- The MODEL'S OWN field: the command byte the ideal device took since select was asserted (DESIGN CHOICE,
  safe, log entry 6). -/
  devCmd : Option Byte
  deriving DecidableEq, Repr

/-- Why the machine stops with a fault. -/
inductive Fault where
  /-- Raised by the host's read of a response field that holds no value (rules R24, R216). Safe: real flip-flops would
  show some bits, to which the spec gives no meaning. -/
  | noValue (f : RespField)
  /-- Raised by a completion row of rule R116 that reads a receive-buffer byte that holds no value (rules R24, R216).
  Safe: no run reaches it. -/
  | noRxByte
  /-- Raised by a row of rule R116 when the phase is busy and no request is latched. A stuck state. Safe: no run
  reaches it. -/
  | noRequest
  /-- Raised by a row of rule R116 when the phase names a transaction the operation does not have. A stuck state. Safe:
  no run reaches it. -/
  | noTransaction
  deriving DecidableEq, Repr

/-- Why a word is given no meaning. -/
inductive Refusal where
  /-- Raised by a refused arm of `exec` for an instruction not yet modelled; no arm is one. Safe. -/
  | notModelled (mnemonic : String)
  /-- Raised for a request word with `OP = 0b111` (rules R98, R216). Safe: the spec refuses the word. -/
  | reservedRequest (w : ReqWord)
  deriving DecidableEq, Repr

/-- The response record with no value in any field (rules R30, R42). -/
def Response.empty : Response := ⟨none, none, none, none, none⟩

/-- The engine right after reset (rule R42). The handle and the constants are the host's and the implementation's
(DESIGN CHOICE, unsafe, log entry 3); the environment has nothing listed (DESIGN CHOICE, log entries 2, 4, 6). -/
def State.reset : State where
  phase := .idle
  sel := .deasserted
  req := none
  rx := Nine.const none
  resp := Response.empty
  trace := []
  calls := []
  handle := Config.handle
  params := { Config.params with recon := .concatShift }
  port := []
  hostLog := []
  answers := []
  draws := 0
  devMode := .oracle
  dev := []
  devCmd := none

end Sys2Proof.Machine
end

