-- ==== Sys2Proof/Machine/Decoder.lean ====
section
/-! DEFINITION. The frame decoder: reconstruction, sign extension, axis mapping (43_burst_decode.md). -/

namespace Sys2Proof.Machine

/-- `zext_32` of a byte (rules R12, R181). -/
def zext32 (b : Byte) : Word32 := b.setWidth 32

/-- The normative reconstruction: concatenate the three bytes, then shift right by 4 (rule R174; 90_conflicts.md C1). -/
def recon (b0 b1 b2 : Byte) : Word32 := ((zext32 b0 <<< 16) ||| (zext32 b1 <<< 8) ||| zext32 b2) >>> 4

/-- The other reading: only the third byte is shifted (rule R175). -/
def reconLiteral (b0 b1 b2 : Byte) : Word32 := (zext32 b0 <<< 16) ||| (zext32 b1 <<< 8) ||| (zext32 b2 >>> 4)

/-- The reconstruction that `RECON_MODE` selects (rules R10, R174, R175). -/
def reconBy (m : ReconMode) (b0 b1 b2 : Byte) : Word32 :=
  match m with
  | .concatShift => recon b0 b1 b2
  | .literal => reconLiteral b0 b1 b2

/-- Sign extension from bit 19; the bits of the signed value (rule R176). -/
def sx20 (u : Word32) : Word32 := if u.getLsbD 19 then (u &&& Config.signMask) - Config.signBias else u

/-- One axis from its three bytes, most significant first (rules R171, R178). -/
def axisOf (m : ReconMode) (b0 b1 b2 : Byte) : Word32 := sx20 (reconBy m b0 b1 b2)

/-- The three axes of a sample. -/
structure Axes where
  x : Word32
  y : Word32
  z : Word32
  deriving DecidableEq, Repr

/-- The whole decoder: bytes 0 to 2 are X, 3 to 5 are Y, 6 to 8 are Z (rules R178, R179). -/
def decodeFrame (m : ReconMode) (bs : Nine Byte) : Axes :=
  ⟨axisOf m bs.b0 bs.b1 bs.b2, axisOf m bs.b3 bs.b4 bs.b5, axisOf m bs.b6 bs.b7 bs.b8⟩

/-- The inverse for building inputs: the three bytes of a sample with zero padding (rule R184). -/
def sampleBytes (v : Word32) : Byte × Byte × Byte :=
  (v.extractLsb' 12 8, v.extractLsb' 4 8, v.extractLsb' 0 4 ++ 0x0#4)

end Sys2Proof.Machine
end

