-- ==== Sys2Proof/Machine/Flags.lean ====
section
/-! DEFINITION. The engine has no flags (rule R38); its comparisons, its result codes and the response record's shapes
(rules R22, R23, R91, R92, R147, R160). -/

namespace Sys2Proof.Machine

/-- The comparison of a configuration operation: equality of all eight bits (rules R140, R147). -/
def readbackResult (v b : Byte) : Result := if b = v then .success else .readbackMismatch

/-- The comparison of the identity check: equality of all eight bits (rule R160). -/
def identityResult (expected b : Byte) : Result := if b = expected then .success else .identityMismatch

/-- The result an operation reports when a transfer failed (rules R116, R201). -/
def failResult (i : Instr) : Result :=
  match i with
  | .wrreg _ _ => .busError
  | .rdreg _ => .busError
  | .setodr _ => .busError
  | .setrng _ => .busError
  | .setmeas => .busError
  | .chkid => .identityMismatch
  | .rdxyz => .busError

/-- The code of a result (rule R92). -/
def Result.code : Result → BitVec 3
  | .success => 0#3
  | .genericError => 1#3
  | .busError => 2#3
  | .readbackMismatch => 3#3
  | .identityMismatch => 4#3

/-- The result a code names; 5, 6 and 7 name none (rules R92, R93). -/
def Result.ofCode? (c : BitVec 3) : Option Result :=
  match c.toNat with
  | 0 => some .success
  | 1 => some .genericError
  | 2 => some .busError
  | 3 => some .readbackMismatch
  | 4 => some .identityMismatch
  | _ => none

/-- A response in which only `RESULT` holds a value (rule R23). -/
def Response.ofResult (r : Result) : Response := ⟨some r, none, none, none, none⟩

/-- The response of a register read that succeeded (rule R23). -/
def Response.ofByte (b : Byte) : Response := ⟨some .success, some b, none, none, none⟩

/-- The response of a burst that succeeded (rule R23). -/
def Response.ofAxes (x y z : Word32) : Response := ⟨some .success, none, some x, some y, some z⟩

/-- A read of one response field: a value, or none where the field holds no value (rule R24). -/
def Response.field (r : Response) (f : RespField) : Option FieldValue :=
  match f with
  | .result => r.result.map .result
  | .rdata => r.rdata.map .byte
  | .x => r.x.map .axis
  | .y => r.y.map .axis
  | .z => r.z.map .axis

/-- A field's bits agree with the value it holds; a field with no value has no defined bits (rule R91). -/
def agrees {n : Nat} (v : Option (BitVec n)) (bits : BitVec n) : Bool :=
  match v with
  | some x => x == bits
  | none => true

/-- `w` is a packing `RESP[106:0] = {RESULT, RDATA, X, Y, Z}` of the response (rule R91). -/
def Response.packsInto (r : Response) (w : BitVec 107) : Bool :=
  agrees (r.result.map Result.code) (w.extractLsb' 104 3) && agrees r.rdata (w.extractLsb' 96 8) &&
    agrees r.x (w.extractLsb' 64 32) && agrees r.y (w.extractLsb' 32 32) && agrees r.z (w.extractLsb' 0 32)

end Sys2Proof.Machine
end

