-- ==== Sys2Proof/Machine/Memory.lean ====
section
/-! DEFINITION. The register space of the ideal device as a canonical list of cells (rules R50, R62). -/

namespace Sys2Proof.Machine

/-- What a byte of the ideal device that is not listed reads as (DESIGN CHOICE, unsafe, log entry 6). -/
def unlistedByte : Byte := 0x00#8

/-- The byte at an address of the ideal device (rule R62). -/
def cellsRead : List Host.Cell → Nat → Byte
  | [], _ => unlistedByte
  | c :: rest, a => if c.1 = a then c.2 else cellsRead rest a

/-- A cell in front of a list, left out when its byte is what an unlisted address reads as. -/
def cellsCons (a : Nat) (v : Byte) (m : List Host.Cell) : List Host.Cell :=
  if v = unlistedByte then m else (a, v) :: m

/-- `dev[a] <- v` (rule R62), keeping the canonical form. -/
def cellsWrite : List Host.Cell → Nat → Byte → List Host.Cell
  | [], a, v => cellsCons a v []
  | c :: rest, a, v =>
    if a < c.1 then cellsCons a v (c :: rest)
    else if a = c.1 then cellsCons a v rest
    else c :: cellsWrite rest a v

/-- Addresses strictly rising from `lo`, below 128 (rule R50), and no entry equal to what an unlisted address reads as. -/
def cellsWfFrom : Nat → List Host.Cell → Bool
  | _, [] => true
  | lo, c :: rest => decide (lo ≤ c.1) && decide (c.1 < 128) && c.2 != unlistedByte && cellsWfFrom (c.1 + 1) rest

/-- The canonical form of the device's register space. -/
def cellsWf (m : List Host.Cell) : Bool := cellsWfFrom 0 m

/-- The nine bytes from an address upward (rules R62, R65). -/
def cellsNine (m : List Host.Cell) (a : Nat) : Nine Byte :=
  ⟨cellsRead m a, cellsRead m (a + 1), cellsRead m (a + 2), cellsRead m (a + 3), cellsRead m (a + 4),
   cellsRead m (a + 5), cellsRead m (a + 6), cellsRead m (a + 7), cellsRead m (a + 8)⟩

end Sys2Proof.Machine
end

