-- ==== Sys2Proof/Machine/Operands.lean ====
section
/-! DEFINITION. Operands: the two addressing modes (rule R125), the frame shapes (rule R88) and the transaction table (rule R116). -/

namespace Sys2Proof.Machine

/-- The three frame shapes (rule R88). -/
inductive Kind where
  | w1
  | r1
  | r9
  deriving DecidableEq, Repr

/-- The direction of a frame's command byte (rules R88, R111). -/
def Kind.dir : Kind → Dir
  | .w1 => .write
  | .r1 => .read
  | .r9 => .read

/-- The number of bytes of a receive (rule R33). -/
def RxLen.toNat : RxLen → Nat
  | .one => 1
  | .nine => Config.burstLen

/-- One transaction `(kind, address, value)`; the value is used by `W1` only (rules R111, R116). -/
structure Txn where
  kind : Kind
  addr : RegAddr
  value : Byte
  deriving DecidableEq, Repr

/-- A frame W1: write `v` to `a` (rule R112). -/
def Txn.write (a : RegAddr) (v : Byte) : Txn := ⟨.w1, a, v⟩

/-- A frame R1: read one byte at `a` (rule R113). -/
def Txn.read (a : RegAddr) : Txn := ⟨.r1, a, 0x00#8⟩

/-- The frame R9 (rule R113). -/
def Txn.burst (p : Params) : Txn := ⟨.r9, p.dataAddr, 0x00#8⟩

/-- Transaction `k` of an operation: its kind, its address (request-absolute or parameter-absolute, rule R125) and its
value (the first table of rule R116). -/
def transaction (p : Params) (i : Instr) (k : TxnIndex) : Option Txn :=
  match i, k with
  | .wrreg a d, .one => some (Txn.write a d)
  | .wrreg _ _, .two => none
  | .rdreg a, .one => some (Txn.read a)
  | .rdreg _, .two => none
  | .setodr d, .one => some (Txn.write p.odrAddr d)
  | .setodr _, .two => some (Txn.read p.odrAddr)
  | .setrng d, .one => some (Txn.write p.rangeAddr d)
  | .setrng _, .two => some (Txn.read p.rangeAddr)
  | .setmeas, .one => some (Txn.write p.pwrAddr p.measureEnc)
  | .setmeas, .two => some (Txn.read p.pwrAddr)
  | .chkid, .one => some (Txn.read p.idAddr)
  | .chkid, .two => none
  | .rdxyz, .one => some (Txn.burst p)
  | .rdxyz, .two => none

/-- The byte an operation writes and compares with, for the operations that write (rules R121, R140, R144). -/
def writtenValue (p : Params) (i : Instr) : Byte :=
  match i with
  | .wrreg _ d => d
  | .rdreg _ => 0x00#8
  | .setodr d => d
  | .setrng d => d
  | .setmeas => p.measureEnc
  | .chkid => 0x00#8
  | .rdxyz => 0x00#8

end Sys2Proof.Machine
end

