-- ==== Sys2Proof/Machine/Ops.lean ====
section
/-! DEFINITION. The operations every instruction is made of: the primitives at the boundary (rules R32, R33, R34), the
transaction (rule R111), taking a request (rule R116 S0) and completion (rule R203), which stands where an ISA takes an
exception. -/

namespace Sys2Proof.Machine

/-- The answer of a transport that never fails (rule R62). -/
def okAnswer : Answer := ⟨.ok, Nine.const 0x00#8⟩

/-- The `k`-th coming answer of the transport: a listed one, or past the list a free draw (rules R35, R205), or `OK`
when the ideal device is attached (rule R62). -/
def State.answerAt (s : State) (k : Nat) : Answer :=
  match s.answers[k]? with
  | some a => a
  | none =>
    match s.devMode with
    | .oracle => Config.draw (s.draws + (k - s.answers.length))
    | .ideal => okAnswer

/-- The next answer has been used. -/
def State.dropAnswer (s : State) : State :=
  match s.answers with
  | _ :: rest => { s with answers := rest }
  | [] =>
    match s.devMode with
    | .oracle => { s with draws := s.draws + 1 }
    | .ideal => s

/-- A register of the ideal device whose write failed holds a free value (rule R64). -/
def State.scramble (s : State) (a : RegAddr) : State :=
  { s with dev := cellsWrite s.dev a.toNat (Config.devContent s.draws), draws := s.draws + 1 }

/-- What the ideal device does with a transmitted byte: the first of a transaction is the command, the second of a
write is the value (rule R62); a failed write leaves a free value (rule R64). -/
def State.deviceTx (s : State) (b : Byte) (st : Status) : State :=
  match s.devMode with
  | .oracle => s
  | .ideal =>
    match s.devCmd, st with
    | none, .ok => { s with devCmd := some b }
    | none, .fail =>
      match commandDir b with
      | .write => s.scramble (commandAddr b)
      | .read => s
    | some c, .ok =>
      match commandDir c with
      | .write => { s with dev := cellsWrite s.dev (commandAddr c).toNat b }
      | .read => s
    | some c, .fail =>
      match commandDir c with
      | .write => s.scramble (commandAddr c)
      | .read => s

/-- The bytes an `OK` receive delivers: the transport's answer (rule R35), or the ideal device's registers from the
commanded address upward (rule R62). -/
def State.deviceBytes (s : State) (answered : Nine Byte) : Nine Byte :=
  match s.devMode, s.devCmd with
  | .ideal, some c => cellsNine s.dev (commandAddr c).toNat
  | .ideal, none => answered
  | .oracle, _ => answered

/-- `rx[0..8] <- no value` (rules R26, R111). -/
def State.clearRx (s : State) : State := { s with rx := Nine.const none }

/-- `SelAssert()` (rules R28, R34). -/
def State.selAssert (s : State) : State :=
  { s with
    sel := .asserted, devCmd := none, trace := s.trace ++ [.selA]
    calls := s.calls ++ [.assertSel s.handle.sel] }

/-- `SelDeassert()` (rules R28, R34). -/
def State.selDeassert (s : State) : State :=
  { s with
    sel := .deasserted, devCmd := none, trace := s.trace ++ [.selD]
    calls := s.calls ++ [.deassertSel s.handle.sel] }

/-- The record of one transmit (rules R29, R32, R117). -/
def State.logTx (s : State) (b : Byte) (st : Status) : State :=
  { s with
    trace := s.trace ++ [.tx [b] st]
    calls := s.calls ++ [.transmit s.handle.bus [b] s.handle.timeout] }

/-- The record of one receive (rules R29, R33, R117). -/
def State.logRx (s : State) (n : RxLen) (st : Status) (bs : Option (List Byte)) : State :=
  { s with
    trace := s.trace ++ [.rx n.toNat st bs]
    calls := s.calls ++ [.receive s.handle.bus n.toNat s.handle.timeout] }

/-- The receive buffer after an `OK` receive: one byte goes to `rx[0]`, nine to `rx[0..8]` (rule R26). -/
def State.putRx (s : State) (n : RxLen) (bs : Nine Byte) : State :=
  match n with
  | .one => { s with rx := { s.rx with b0 := some bs.b0 } }
  | .nine => { s with rx := bs.map some }

/-- The bytes a receive of `n` delivers, in the order they arrived (rules R26, R29). -/
def RxLen.take (n : RxLen) (bs : Nine Byte) : List Byte :=
  match n with
  | .one => [bs.b0]
  | .nine => bs.toList

/-- `st <- Tx([b])` (rules R13, R32). -/
def State.transmit (s : State) (b : Byte) : Status × State :=
  ((s.answerAt 0).status, (s.dropAnswer.deviceTx b (s.answerAt 0).status).logTx b (s.answerAt 0).status)

/-- `(st, bs) <- Rx(n)`, and on `OK` the bytes into the receive buffer (rules R13, R26, R33). -/
def State.receive (s : State) (n : RxLen) : Status × State :=
  match (s.answerAt 0).status with
  | .ok =>
    (.ok, (s.dropAnswer.putRx n (s.deviceBytes (s.answerAt 0).bytes)).logRx n .ok
      (some (n.take (s.deviceBytes (s.answerAt 0).bytes))))
  | .fail => (.fail, s.dropAnswer.logRx n .fail none)

/-- The payload transfer of a transaction (rule R111). -/
def State.payload (s : State) (t : Txn) : Status × State :=
  match t.kind with
  | .w1 => s.transmit t.value
  | .r1 => s.receive .one
  | .r9 => s.receive .nine

/-- The command transmit of a transaction (rules R84, R111). -/
def State.command (s : State) (t : Txn) : Status × State := s.transmit (commandByte t.kind.dir t.addr)

/-- The transfers of a transaction: the payload is attempted only when the command returned `OK` (rules R111, R114). -/
def State.transfers (s : State) (t : Txn) : Status × State :=
  match s.command t with
  | (.ok, s') => s'.payload t
  | (.fail, s') => (.fail, s')

/-- `Txn(kind, a, v)`: select is deasserted on every path (rules R110, R111, R115). -/
def State.runTxn (s : State) (t : Txn) : Status × State :=
  ((s.clearRx.selAssert.transfers t).1, (s.clearRx.selAssert.transfers t).2.selDeassert)

/-- `MemWrite(a, 1, v)` (rule R112). -/
def State.memWrite (s : State) (a : RegAddr) (v : Byte) : Status × State := s.runTxn (Txn.write a v)

/-- The nine bytes of a buffer in which every byte holds a value (rules R24, R26). -/
def fullBuffer (rx : Nine (Option Byte)) : Option (Nine Byte) :=
  match rx with
  | ⟨some b0, some b1, some b2, some b3, some b4, some b5, some b6, some b7, some b8⟩ =>
    some ⟨b0, b1, b2, b3, b4, b5, b6, b7, b8⟩
  | _ => none

/-- `MemRead(a, 1)`: the byte, or no value when a transfer failed (rule R113). -/
def State.memRead (s : State) (a : RegAddr) : Option Byte × State :=
  match s.runTxn (Txn.read a) with
  | (.ok, s') => (s'.rx.b0, s')
  | (.fail, s') => (none, s')

/-- `MemRead(P.DATA_BASE, 9)`: the nine bytes, or no value when a transfer failed (rule R113). -/
def State.memReadBurst (s : State) : Option (Nine Byte) × State :=
  match s.runTxn (Txn.burst s.params) with
  | (.ok, s') => (fullBuffer s'.rx, s')
  | (.fail, s') => (none, s')

/-- `return r`: the response is written, the phase is `IDLE` and the host is handed the response (rules R23, R31, R203). -/
def State.complete (s : State) (r : Response) : State :=
  { s with resp := r, phase := .idle, hostLog := s.hostLog ++ [.resp r] }

/-- Step S0 of rule R116: the request is latched and every response field is set to no value (rules R25, R30). -/
def State.takeRequest (s : State) (w : ReqWord) : State :=
  { s with
    req := some w, resp := Response.empty, phase := .busy .one .sel
    hostLog := s.hostLog ++ [.req w] }

/-- `SetVerify(R, v)`: write, read back, compare (rule R140). -/
def State.setVerify (s : State) (a : RegAddr) (v : Byte) : State :=
  match s.memWrite a v with
  | (.fail, s1) => s1.complete (Response.ofResult .busError)
  | (.ok, s1) =>
    match s1.memRead a with
    | (none, s2) => s2.complete (Response.ofResult .busError)
    | (some b, s2) => s2.complete (Response.ofResult (readbackResult v b))

end Sys2Proof.Machine
end

