-- ==== Sys2Proof/Machine/Burst.lean ====
section
/-! DEFINITION. RDXYZ (43_burst_decode.md). -/

namespace Sys2Proof.Machine

/-- The response of a burst: the three decoded axes (rules R171, R179). -/
def burstResponse (m : ReconMode) (bs : Nine Byte) : Response :=
  Response.ofAxes (decodeFrame m bs).x (decodeFrame m bs).y (decodeFrame m bs).z

/-- RDXYZ: nothing is decoded unless the whole burst succeeded (rules R171, R172). -/
def execRdxyz (s : State) : Host.Outcome State Fault Refusal :=
  .next (match s.memReadBurst with
    | (some bs, s') => s'.complete (burstResponse s'.params.recon bs)
    | (none, s') => s'.complete (Response.ofResult .busError))

end Sys2Proof.Machine
end

