-- ==== Sys2Proof/Machine/Configuration.lean ====
section
/-! DEFINITION. SETODR, SETRNG and SETMEAS (41_configuration.md). -/

namespace Sys2Proof.Machine

/-- SETODR (rule R142). -/
def execSetodr (d : Byte) (s : State) : Host.Outcome State Fault Refusal :=
  .next (s.setVerify s.params.odrAddr d)

/-- SETRNG (rule R143). -/
def execSetrng (d : Byte) (s : State) : Host.Outcome State Fault Refusal :=
  .next (s.setVerify s.params.rangeAddr d)

/-- SETMEAS (rule R144). -/
def execSetmeas (s : State) : Host.Outcome State Fault Refusal :=
  .next (s.setVerify s.params.pwrAddr s.params.measureEnc)

end Sys2Proof.Machine
end

