-- ==== Sys2Proof/Machine/Identity.lean ====
section
/-! DEFINITION. CHKID (42_identity.md). -/

namespace Sys2Proof.Machine

/-- CHKID: a failed transfer and a wrong byte give the same result (rule R160). -/
def execChkid (s : State) : Host.Outcome State Fault Refusal :=
  .next (match s.memRead s.params.idAddr with
    | (some b, s') => s'.complete (Response.ofResult (identityResult s'.params.idValue b))
    | (none, s') => s'.complete (Response.ofResult .identityMismatch))

end Sys2Proof.Machine
end

