-- ==== Sys2Proof/Machine/RegisterAccess.lean ====
section
/-! DEFINITION. WRREG and RDREG (40_register_access.md). -/

namespace Sys2Proof.Machine

/-- WRREG (rule R121). -/
def execWrreg (a : RegAddr) (d : Byte) (s : State) : Host.Outcome State Fault Refusal :=
  .next (match s.memWrite a d with
    | (.ok, s') => s'.complete (Response.ofResult .success)
    | (.fail, s') => s'.complete (Response.ofResult .busError))

/-- RDREG (rule R122). -/
def execRdreg (a : RegAddr) (s : State) : Host.Outcome State Fault Refusal :=
  .next (match s.memRead a with
    | (some b, s') => s'.complete (Response.ofByte b)
    | (none, s') => s'.complete (Response.ofResult .busError))

end Sys2Proof.Machine
end

