-- ==== Sys2Proof/Machine/Dispatch.lean ====
section
/-! DEFINITION. One arm per operation of rule R82: the operation as one atomic function (90_conflicts.md C7). -/

namespace Sys2Proof.Machine

def exec (i : Instr) (s : State) : Host.Outcome State Fault Refusal :=
  match i with
  | .wrreg a d => Sys2Proof.Machine.execWrreg a d s
  | .rdreg a => Sys2Proof.Machine.execRdreg a s
  | .setodr d => Sys2Proof.Machine.execSetodr d s
  | .setrng d => Sys2Proof.Machine.execSetrng d s
  | .setmeas => Sys2Proof.Machine.execSetmeas s
  | .chkid => Sys2Proof.Machine.execChkid s
  | .rdxyz => Sys2Proof.Machine.execRdxyz s

end Sys2Proof.Machine
end

