-- ==== Sys2Proof/Machine/Sequencer.lean ====
section
/-! DEFINITION. The sequencer, one bus event a step: the transition table of rule R116. -/

namespace Sys2Proof.Machine

/-- `eval(op)`, the completion of an operation whose transfers all returned `OK` (rule R116, step S6). A read of a
buffer byte that holds no value is a fault (rule R216). -/
def evalOp (i : Instr) (s : State) : Host.Outcome State Fault Refusal :=
  match i with
  | .wrreg _ _ => .next (s.complete (Response.ofResult .success))
  | .rdreg _ =>
    match s.rx.b0 with
    | some b => .next (s.complete (Response.ofByte b))
    | none => .fault .noRxByte
  | .setodr _ | .setrng _ | .setmeas =>
    match s.rx.b0 with
    | some b => .next (s.complete (Response.ofResult (readbackResult (writtenValue s.params i) b)))
    | none => .fault .noRxByte
  | .chkid =>
    match s.rx.b0 with
    | some b => .next (s.complete (Response.ofResult (identityResult s.params.idValue b)))
    | none => .fault .noRxByte
  | .rdxyz =>
    match fullBuffer s.rx with
    | some bs => .next (s.complete (burstResponse s.params.recon bs))
    | none => .fault .noRxByte

/-- The phase after a transfer: on, or to the failing release (rule R116, S2 and S3). -/
def State.afterTransfer (r : Status × State) (k : TxnIndex) (onOk : SubPhase) : State :=
  match r.1 with
  | .ok => { r.2 with phase := .busy k onOk }
  | .fail => { r.2 with phase := .busy k .relFail }

/-- Steps S5 and S6 of rule R116: release, then the second transaction if the operation has one, else completion. -/
def releaseOk (i : Instr) (k : TxnIndex) (s : State) : Host.Outcome State Fault Refusal :=
  match k, transaction s.params i .two with
  | .one, some _ => .next { s.selDeassert with phase := .busy .two .sel }
  | .one, none => evalOp i s.selDeassert
  | .two, _ => evalOp i s.selDeassert

/-- One row of rule R116 for the running operation `i` in phase `(k, p)`. -/
def seqRow (i : Instr) (k : TxnIndex) (p : SubPhase) (s : State) : Host.Outcome State Fault Refusal :=
  match transaction s.params i k with
  | none => .fault .noTransaction
  | some t =>
    match p with
    | .sel => .next { s.clearRx.selAssert with phase := .busy k .cmd }
    | .cmd => .next (State.afterTransfer (s.command t) k .pay)
    | .pay => .next (State.afterTransfer (s.payload t) k .relOk)
    | .relOk => releaseOk i k s
    | .relFail => .next (s.selDeassert.complete (Response.ofResult (failResult i)))

/-- The row of rule R116 that the latched request and a busy phase enable (rules R25, R27). -/
def busyStep (k : TxnIndex) (p : SubPhase) (s : State) : Host.Outcome State Fault Refusal :=
  match s.req with
  | none => .fault .noRequest
  | some w =>
    match decode w with
    | none => .refused (.reservedRequest w)
    | some i => seqRow i k p s

end Sys2Proof.Machine
end

