-- ==== Sys2Proof/Machine/HostPort.lean ====
section
/-! DEFINITION. The host's moves at an idle engine: presenting a request, reading the response, stopping (rules R24, R30,
R95, R98), at the grain of one operation and at the grain of one bus event. -/

namespace Sys2Proof.Machine

/-- The host reads a response field; a field that holds no value is a fault of the reader (rules R24, R216). -/
def hostRead (f : RespField) (s : State) : Host.Outcome State Fault Refusal :=
  match s.resp.field f with
  | some v => .next { s with hostLog := s.hostLog ++ [.got f v] }
  | none => .fault (.noValue f)

/-- `if RESULT /= Success then stop` (rule R95). -/
def hostStopUnlessSuccess (s : State) : Host.Outcome State Fault Refusal :=
  match s.resp.result with
  | some .success => .next s
  | some _ => .next { s with port := [] }
  | none => .fault (.noValue .result)

/-- A request presented to an idle engine: latched (rule R116, S0), then `run` of its operation; the reserved word is
refused and not taken (rule R98). -/
def present (run : Instr → State → Host.Outcome State Fault Refusal) (w : ReqWord) (s : State) :
    Host.Outcome State Fault Refusal :=
  match decode w with
  | some i => run i (s.takeRequest w)
  | none => .refused (.reservedRequest w)

/-- The next move of the host at an idle engine; with no move left the engine waits (DEDUCED, safe, log entry 8). -/
def idleStep (run : Instr → State → Host.Outcome State Fault Refusal) (s : State) :
    Host.Outcome State Fault Refusal :=
  match s.port with
  | [] => .next s
  | .request w :: rest => present run w { s with port := rest }
  | .read f :: rest => hostRead f { s with port := rest }
  | .stopUnlessSuccess :: rest => hostStopUnlessSuccess { s with port := rest }

/-- One step at the grain of one operation: at an idle engine the host's move, a request being run to its completion
(90_conflicts.md C7; DESIGN CHOICE, safe, log entry 1); in a busy phase the row of rule R116. -/
def operationStep (s : State) : Host.Outcome State Fault Refusal :=
  match s.phase with
  | .idle => idleStep exec s
  | .busy k p => busyStep k p s

/-- One step at the grain of one bus event: at an idle engine the host's move, a request being only latched (S0); in a
busy phase the row of rule R116 (rules R21, R231). -/
def eventStep (s : State) : Host.Outcome State Fault Refusal :=
  match s.phase with
  | .idle => idleStep (fun _ t => .next t) s
  | .busy k p => busyStep k p s

/-- `n` event steps, stopping at the first fault or refusal. -/
def eventRun : Nat → State → Host.Outcome State Fault Refusal
  | 0, s => .next s
  | n + 1, s =>
    match eventStep s with
    | .next t => eventRun n t
    | .fault r => .fault r
    | .refused r => .refused r

/-- A request word put where the next step takes its request: first at the host's port, the engine idle (rule R30). -/
def State.presentNext (s : State) (w : ReqWord) : State := { s with phase := .idle, port := .request w :: s.port }

end Sys2Proof.Machine
end

