-- ==== Sys2Proof/Machine/Step.lean ====
section
/-! DEFINITION. One step of the machine, and the placing of a request word where the next step takes it. -/

namespace Sys2Proof.Machine

/-- One step (see `operationStep`). -/
def step (s : State) : Host.Outcome State Fault Refusal := operationStep s

/-- The request word `w` presented by the host, so that the next step takes and runs it (rule R30; DESIGN CHOICE, safe, log entry 4). The
word reaches the engine whole (rule R54), so its low 18 bits are the request. -/
def State.withFetchWord (s : State) (_nbits w : Nat) : State := s.presentNext (BitVec.ofNat 18 w)

end Sys2Proof.Machine
end

