-- ==== Sys2Proof/Safety.lean ====
section
/-! DEFINITION. What counts as a safe run, in the terms the statements use: the bus discipline (rules R88, R114, R115), the
invariant of the machine (rules R23, R26, R28) and the effect of one whole operation (rules R29, R31, R203). -/

namespace Sys2Proof.Safety

open Sys2Proof.Machine

/-- Where a trace stands on the bus (rules R88, R115). -/
inductive Bus where
  /-- No transaction: select is deasserted. -/
  | released
  /-- Select has been asserted and nothing transferred. -/
  | selected
  /-- The command byte `c` has been transmitted with `OK`. -/
  | commanded (c : Byte)
  /-- No further transfer may follow: the payload is done or a transfer failed. -/
  | ended
  deriving DecidableEq, Repr

/-- The bytes of a receive event: `n` of them with `OK`, none with `FAIL` (rules R29, R33). -/
def rxShape (n : Nat) (st : Status) (bs : Option (List Byte)) : Bool :=
  match st, bs with
  | .ok, some l => l.length == n
  | .ok, none => false
  | .fail, none => true
  | .fail, some _ => false

/-- The one event that may come next, and where it leads: the frames of rule R88 and their cut-short forms of rule R114.
A nine-byte receive follows the read command of `DATA_BASE` only (rule R113). -/
def busNext (p : Params) : Bus → Event → Option Bus
  | .released, .selA => some .selected
  | .selected, .tx [c] .ok => some (.commanded c)
  | .selected, .tx [_] .fail => some .ended
  | .commanded c, .tx [_] _ => if commandDir c = .write then some .ended else none
  | .commanded c, .rx n st bs =>
    if commandDir c = .read ∧ (n = 1 ∨ n = 9 ∧ commandAddr c = p.dataAddr) ∧ rxShape n st bs then some .ended else none
  | .ended, .selD => some .released
  | _, _ => none

/-- A whole trace from a place on the bus; `none` when an event breaks the discipline. -/
def busScan (p : Params) : Bus → List Event → Option Bus
  | b, [] => some b
  | b, e :: rest =>
    match busNext p b e with
    | some b' => busScan p b' rest
    | none => none

/-- The select line each phase stands for (rule R28). -/
def selFor : Phase → SelLine
  | .idle => .deasserted
  | .busy _ .sel => .deasserted
  | .busy _ .cmd => .asserted
  | .busy _ .pay => .asserted
  | .busy _ .relOk => .asserted
  | .busy _ .relFail => .asserted

/-- Transaction `k` of the latched request (rules R25, R116). -/
def runningTxn (s : State) (k : TxnIndex) : Option Txn :=
  match s.req with
  | some w =>
    match decode w with
    | some i => transaction s.params i k
    | none => none
  | none => none

/-- Where the trace stands on the bus in each phase. -/
def busFor (s : State) : Option Bus :=
  match s.phase with
  | .idle => some .released
  | .busy _ .sel => some .released
  | .busy _ .cmd => some .selected
  | .busy k .pay => (runningTxn s k).map fun t => .commanded (commandByte t.kind.dir t.addr)
  | .busy _ .relOk => some .ended
  | .busy _ .relFail => some .ended

/-- The receive buffer holds exactly the bytes of one `OK` receive of the frame's length (rule R26). -/
def rxFilled (k : Kind) (rx : Nine (Option Byte)) : Bool :=
  match k with
  | .w1 => rx == Nine.const none
  | .r1 => rx.b0.isSome && { rx with b0 := none } == Nine.const none
  | .r9 => (fullBuffer rx).isSome

/-- What the receive buffer holds in each phase (rule R26). -/
def rxFor (s : State) : Bool :=
  match s.phase with
  | .idle => true
  | .busy _ .sel => true
  | .busy _ .cmd => s.rx == Nine.const none
  | .busy _ .pay => s.rx == Nine.const none
  | .busy k .relOk =>
    match runningTxn s k with
    | some t => rxFilled t.kind s.rx
    | none => false
  | .busy _ .relFail => s.rx == Nine.const none

/-- The combinations of fields that rule R23 lets hold a value together, and no result but the four that occur
(rules R202, C8). -/
def respShape (r : Response) : Bool :=
  match r.result, r.rdata, r.x, r.y, r.z with
  | none, none, none, none, none => true
  | some .genericError, _, _, _, _ => false
  | some .success, some _, none, none, none => true
  | some .success, none, some _, some _, some _ => true
  | some _, none, none, none, none => true
  | _, _, _, _, _ => false

/-- An axis value in `[-2^19, 2^19-1]`, where the field holds one (rules R22, R180). -/
def axisInRange (v : Option Word32) : Bool :=
  match v with
  | some x => decide (-524288 ≤ x.toInt) && decide (x.toInt ≤ 524287)
  | none => true

/-- Every axis the response holds is in range (rule R22). -/
def respInRange (r : Response) : Bool := axisInRange r.x && axisInRange r.y && axisInRange r.z

/-- While an operation runs, no response field holds a value (rules R30, R31). -/
def respFor (s : State) : Bool :=
  match s.phase with
  | .idle => respShape s.resp
  | .busy _ _ => s.resp == Response.empty

/-- In a busy phase the latched request names an operation that has the running transaction (rules R25, R27). -/
def txnFor (s : State) : Bool :=
  match s.phase with
  | .idle => true
  | .busy k _ => (runningTxn s k).isSome

/-- The invariant of the machine, at every step of rule R116 and between operations. -/
structure Inv (s : State) : Prop where
  sel : s.sel = selFor s.phase
  txn : txnFor s = true
  bus : busScan s.params .released s.trace = busFor s
  rx : rxFor s = true
  resp : respFor s = true
  dev : cellsWf s.dev = true

/-- The call behind a bus event, with the handle's fields (rules R32, R33, R34, R117). -/
def callOf (h : Handle) : Event → Call
  | .selA => .assertSel h.sel
  | .selD => .deassertSel h.sel
  | .tx bytes _ => .transmit h.bus bytes h.timeout
  | .rx n _ _ => .receive h.bus n h.timeout

/-- What one whole operation that used `n` answers of the transport, caused the events `ev` and returned `r` did to the
state, and what it left alone (rules R20, R29, R31, R36, R117, R203). The device's bytes are said elsewhere. -/
structure RanAs (s t : State) (n : Nat) (ev : List Event) (r : Response) (rx : Nine (Option Byte)) : Prop where
  trace : t.trace = s.trace ++ ev
  calls : t.calls = s.calls ++ ev.map (callOf s.handle)
  resp : t.resp = r
  hostLog : t.hostLog = s.hostLog ++ [.resp r]
  phase : t.phase = .idle
  sel : t.sel = .deasserted
  rx : t.rx = rx
  answers : t.answers = s.answers.drop n
  draws : s.devMode = .oracle → t.draws = s.draws + (n - s.answers.length)
  devCmd : t.devCmd = none
  req : t.req = s.req
  handle : t.handle = s.handle
  params : t.params = s.params
  port : t.port = s.port
  devMode : t.devMode = s.devMode

/-- The status of the `k`-th coming transfer (rule R205). -/
def statusAt (s : State) (k : Nat) : Status := (s.answerAt k).status

/-- The nine bytes an `OK` receive that is the `k`-th coming transfer delivers after a read command for `a`, when the
device has not been written before it: the transport's draw (rule R35) or the ideal device's registers (rule R62). -/
def deliveredAt (s : State) (k : Nat) (a : RegAddr) : Nine Byte :=
  match s.devMode with
  | .oracle => (s.answerAt k).bytes
  | .ideal => cellsNine s.dev a.toNat

/-- The receive buffer after an `OK` receive of one byte (rule R26). -/
def rxOne (b : Byte) : Nine (Option Byte) := { (Nine.const none : Nine (Option Byte)) with b0 := some b }

/-- Every run of `SetVerify(a, v)` from `s`, by the transport's answers (rules R140, R146): the outcome `o` is a next
state with the trace and the response of the row. The byte read back is the transport's draw, or with the ideal device
the byte just written. -/
def SetVerifyRuns (s : State) (o : Host.Outcome State Fault Refusal) (a : RegAddr) (v : Byte) : Prop :=
  ∃ t, o = .next t ∧
    (statusAt s 0 = .fail →
      RanAs s t 1 [.selA, .tx [commandByte .write a] .fail, .selD] (Response.ofResult .busError) (Nine.const none)) ∧
    (statusAt s 0 = .ok → statusAt s 1 = .fail →
      RanAs s t 2 [.selA, .tx [commandByte .write a] .ok, .tx [v] .fail, .selD] (Response.ofResult .busError)
        (Nine.const none)) ∧
    (statusAt s 0 = .ok → statusAt s 1 = .ok → statusAt s 2 = .fail →
      RanAs s t 3 [.selA, .tx [commandByte .write a] .ok, .tx [v] .ok, .selD,
        .selA, .tx [commandByte .read a] .fail, .selD] (Response.ofResult .busError) (Nine.const none)) ∧
    (statusAt s 0 = .ok → statusAt s 1 = .ok → statusAt s 2 = .ok → statusAt s 3 = .fail →
      RanAs s t 4 [.selA, .tx [commandByte .write a] .ok, .tx [v] .ok, .selD,
        .selA, .tx [commandByte .read a] .ok, .rx 1 .fail none, .selD] (Response.ofResult .busError)
        (Nine.const none)) ∧
    (statusAt s 0 = .ok → statusAt s 1 = .ok → statusAt s 2 = .ok → statusAt s 3 = .ok →
      ∃ b : Byte, (s.devMode = .oracle → b = (s.answerAt 3).bytes.b0) ∧
        (s.devMode = .ideal → cellsWf s.dev = true → b = v) ∧
        RanAs s t 4 [.selA, .tx [commandByte .write a] .ok, .tx [v] .ok, .selD,
          .selA, .tx [commandByte .read a] .ok, .rx 1 .ok (some [b]), .selD]
          (Response.ofResult (if b = v then .success else .readbackMismatch)) (rxOne b))

/-- The number of transfers of an operation in which none fails (rule R238). -/
def transferCount : Instr → Nat
  | .wrreg _ _ => 2
  | .rdreg _ => 2
  | .setodr _ => 4
  | .setrng _ => 4
  | .setmeas => 4
  | .chkid => 2
  | .rdxyz => 2

/-- The bytes an operation sends when no transfer fails (rule R238). -/
def sentCount : Instr → Nat
  | .wrreg _ _ => 2
  | .rdreg _ => 1
  | .setodr _ => 3
  | .setrng _ => 3
  | .setmeas => 3
  | .chkid => 1
  | .rdxyz => 1

/-- The bytes an operation receives when no transfer fails (rule R238). -/
def receivedCount : Instr → Nat
  | .wrreg _ _ => 0
  | .rdreg _ => 1
  | .setodr _ => 1
  | .setrng _ => 1
  | .setmeas => 1
  | .chkid => 1
  | .rdxyz => 9

/-- A bus event that is a transfer (rule R14). -/
def isTransfer : Event → Bool
  | .selA => false
  | .selD => false
  | .tx _ _ => true
  | .rx _ _ _ => true

/-- The bytes an event sends (rule R238). -/
def bytesSent : Event → Nat
  | .selA => 0
  | .selD => 0
  | .tx bytes _ => bytes.length
  | .rx _ _ _ => 0

/-- The bytes an event receives (rule R238). -/
def bytesReceived : Event → Nat
  | .selA => 0
  | .selD => 0
  | .tx _ _ => 0
  | .rx _ _ (some bs) => bs.length
  | .rx _ _ none => 0

/-- One request of a host program at an idle engine: latched, then run (rules R30, R95). -/
def request (i : Instr) (s : State) : Host.Outcome State Fault Refusal := exec i (s.takeRequest (encode i))

/-- The expansion of a SET operation into a host program over WRREG and RDREG: its result and the state it ends in
(rule R96); `none` if a request does not complete. -/
def expandSet (a : RegAddr) (v : Byte) (s : State) : Option (Result × State) :=
  match request (.wrreg a v) s with
  | .next t =>
    if t.resp.result = some .success then
      match request (.rdreg a) t with
      | .next u =>
        if u.resp.result = some .success then
          if u.resp.rdata = some v then some (.success, u) else some (.readbackMismatch, u)
        else some (.busError, u)
      | .fault _ => none
      | .refused _ => none
    else some (.busError, t)
  | .fault _ => none
  | .refused _ => none

/-- The expansion of CHKID into a host program over RDREG (rule R96). -/
def expandChkid (s : State) : Option (Result × State) :=
  match request (.rdreg s.params.idAddr) s with
  | .next t =>
    if t.resp.result = some .success then
      if t.resp.rdata = some s.params.idValue then some (.success, t) else some (.identityMismatch, t)
    else some (.identityMismatch, t)
  | .fault _ => none
  | .refused _ => none

/-- The part of a state that an operation's effect on the bus and its response depend on (rules R20, R119). -/
def SameInputs (s t : State) : Prop :=
  s.params = t.params ∧ s.answers = t.answers ∧ s.draws = t.draws ∧ s.devMode = t.devMode ∧ s.dev = t.dev

end Sys2Proof.Safety
end

