-- ==== Sys2Proof/Certificates/Slice0/Obligations.lean ====
section
/-! DEFINITION. The statements about the model, from the numbered rules of spec/. Nothing is proved here. -/

open Sys2Proof Sys2Proof.Machine Sys2Proof.Safety

/-! Encodings (30_encoding.md). -/

/-- Decoding the word of any instruction gives that instruction back (rules R80, R82, R83, the spec's own
decisions D2 and D3). -/
def Obligations.DecodeEncodeRoundTrip : Prop :=
  ∀ i : Instr, i.wellFormed = true ∧ decode (encode i) = some i

/-- A request word is its three fields and nothing else (rule R80, the spec's own decision D2). -/
def Obligations.RequestWordIsItsFields : Prop :=
  (∀ (op : BitVec 3) (a : RegAddr) (d : Byte),
    opField (packRequest op a d) = op ∧ addrField (packRequest op a d) = a ∧ dataField (packRequest op a d) = d) ∧
  ∀ w : ReqWord, packRequest (opField w) (addrField w) (dataField w) = w

/-- A field an operation does not use changes neither what is decoded nor the run: two request words that differ only
in ignored fields give the same trace and the same response (rules R83, R94, the spec's own decision D4). -/
def Obligations.IgnoredFieldsHaveNoEffect : Prop :=
  (∀ (a : RegAddr) (d d' : Byte), decode (packRequest 1#3 a d) = decode (packRequest 1#3 a d')) ∧
  (∀ (op : BitVec 3) (a a' : RegAddr) (d : Byte), op = 2#3 ∨ op = 3#3 →
    decode (packRequest op a d) = decode (packRequest op a' d)) ∧
  (∀ (op : BitVec 3) (a a' : RegAddr) (d d' : Byte), op = 4#3 ∨ op = 5#3 ∨ op = 6#3 →
    decode (packRequest op a d) = decode (packRequest op a' d')) ∧
  ∀ (w w' : ReqWord) (i : Instr) (s : State), decode w = some i → decode w' = some i →
    ∃ t t', exec i (s.takeRequest w) = .next t ∧ exec i (s.takeRequest w') = .next t' ∧
      t.trace = t'.trace ∧ t.resp = t'.resp

/-- The reserved operation number names no operation, and it is the only one; a host that presents such a word has no
run (rule R98, the spec's own decision D5). -/
def Obligations.ReservedRequestIsRefused : Prop :=
  (∀ w : ReqWord, decode w = none ↔ opField w = 0b111#3) ∧
  ∀ (w : ReqWord) (s : State) (rest : List HostMove), opField w = 0b111#3 → s.phase = .idle →
    s.port = .request w :: rest → step s = .refused (.reservedRequest w)

/-- The opcode table: a word decodes exactly when a row accepts it, and no two rows accept one word (rule R97). -/
def Obligations.OpcodeTableCoversAndIsDisjoint : Prop :=
  (∀ w : ReqWord, (decode w).isSome = true ↔ ∃ r ∈ opcodeTable, r.accepts w = true) ∧
  ∀ (w : ReqWord) (r r' : OpRow), r ∈ opcodeTable → r' ∈ opcodeTable → r.accepts w = true → r'.accepts w = true →
    r = r'

/-- Words written out from the encodings decode to the instructions they stand for (rule R95, the spec's own
decision D3; 95_test_vectors.md L2-B). -/
def Obligations.ListedWordsDecode : Prop :=
  decode 0x02C01#18 = some (.wrreg 0x2C#7 0x01#8) ∧ decode 0x0AC00#18 = some (.rdreg 0x2C#7) ∧
  decode 0x10005#18 = some (.setodr 0x05#8) ∧ decode 0x18002#18 = some (.setrng 0x02#8) ∧
  decode 0x20000#18 = some .setmeas ∧ decode 0x28000#18 = some .chkid ∧ decode 0x37FFF#18 = some .rdxyz ∧
  decode 0x38000#18 = none

/-- The command byte: the address in bits 7:1, the direction in bit 0; a bijection (rules R84, R86). -/
def Obligations.CommandByteIsABijection : Prop :=
  (∀ a : RegAddr, commandByte .read a ≠ commandByte .write a ∧ commandByte .read a = commandByte .write a + 1#8) ∧
  (∀ (d : Dir) (a : RegAddr), commandByte d a >>> 1 = a.setWidth 8 ∧
    commandByte d a &&& 1#8 = (match d with | .read => 1#8 | .write => 0#8)) ∧
  ∀ c : Byte, ∃ d a, commandByte d a = c ∧ ∀ d' a', commandByte d' a' = c → d' = d ∧ a' = a

/-- An assembler line in range is the word rule R95 (the spec's own decision D3) gives; a line out of range is none. -/
def Obligations.AssemblerLinesGiveTheirWords : Prop :=
  (∀ a v : Nat, a < 128 → v < 256 → ∃ i, (AsmLine.wrreg a v).assemble = some i ∧ (encode i).toNat = 256 * a + v) ∧
  (∀ a : Nat, a < 128 → ∃ i, (AsmLine.rdreg a).assemble = some i ∧ (encode i).toNat = 0x8000 + 256 * a) ∧
  (∀ v : Nat, v < 256 → ∃ i, (AsmLine.setodr v).assemble = some i ∧ (encode i).toNat = 0x10000 + v) ∧
  (∀ v : Nat, v < 256 → ∃ i, (AsmLine.setrng v).assemble = some i ∧ (encode i).toNat = 0x18000 + v) ∧
  AsmLine.setmeas.assemble.map encode = some 0x20000#18 ∧ AsmLine.chkid.assemble.map encode = some 0x28000#18 ∧
  AsmLine.rdxyz.assemble.map encode = some 0x30000#18 ∧
  ∀ a v : Nat, (128 ≤ a ∨ 256 ≤ v → (AsmLine.wrreg a v).assemble = none) ∧
    (128 ≤ a → (AsmLine.rdreg a).assemble = none) ∧
    (256 ≤ v → (AsmLine.setodr v).assemble = none ∧ (AsmLine.setrng v).assemble = none)

/-- The codes of the results, and the three codes that name none (rules R92, R93, the spec's own decision D6). -/
def Obligations.ResultCodesRoundTrip : Prop :=
  (∀ r : Result, Result.ofCode? r.code = some r) ∧
  Result.code .success = 0#3 ∧ Result.code .genericError = 1#3 ∧ Result.code .busError = 2#3 ∧
  Result.code .readbackMismatch = 3#3 ∧ Result.code .identityMismatch = 4#3 ∧
  Result.ofCode? 5#3 = none ∧ Result.ofCode? 6#3 = none ∧ Result.ofCode? 7#3 = none

/-- The packing of a response: fields that hold a value have their bits, the others any bits; for every shape a response
takes (result alone, a byte read, three axes, none yet) and for the five fields together (rule R91, the spec's own
decision D8). -/
def Obligations.ResponsePackingHasTheFields : Prop :=
  (∀ (c : Result) (b : Byte) (x y z : Word32) (w : BitVec 107),
    Response.packsInto ⟨some c, some b, some x, some y, some z⟩ w = true ↔ w = c.code ++ b ++ x ++ y ++ z) ∧
  (∀ (c : Result) (w : BitVec 107),
    Response.packsInto (Response.ofResult c) w = true ↔ w.extractLsb' 104 3 = c.code) ∧
  (∀ (b : Byte) (w : BitVec 107), Response.packsInto (Response.ofByte b) w = true ↔
    w.extractLsb' 104 3 = Result.code .success ∧ w.extractLsb' 96 8 = b) ∧
  (∀ (x y z : Word32) (w : BitVec 107), Response.packsInto (Response.ofAxes x y z) w = true ↔
    w.extractLsb' 104 3 = Result.code .success ∧ w.extractLsb' 64 32 = x ∧ w.extractLsb' 32 32 = y ∧
      w.extractLsb' 0 32 = z) ∧
  ∀ w : BitVec 107, Response.packsInto Response.empty w = true

/-! The step, the host's moves and reset (10_state.md, 70_reset_and_hazards.md). -/

/-- When the host's next move presents a word that decodes to `i`, a step latches it and is `exec i` (the model's choice of
step, 90_conflicts.md C7, log entries 1 and 4). -/
def Obligations.StepRunsTheDecodedRequest : Prop :=
  (∀ (s : State) (w : ReqWord) (rest : List HostMove) (i : Instr), s.phase = .idle → s.port = .request w :: rest →
    decode w = some i → step s = exec i ({ s with port := rest }.takeRequest w)) ∧
  ∀ (s : State) (n w : Nat) (i : Instr), decodeTableWord n w = some i →
    step (s.withFetchWord n w) = exec i ({ s with phase := .idle }.takeRequest (BitVec.ofNat 18 w))

/-- Taking a request latches the word, invalidates every response field and enters `(1, SEL)` (rules R25, R30,
the spec's own decisions D2 and D14). -/
def Obligations.TakingARequestLatchesIt : Prop :=
  ∀ (s : State) (w : ReqWord) (rest : List HostMove), s.phase = .idle → s.port = .request w :: rest →
    opField w ≠ 0b111#3 → ∃ t, eventStep s = .next t ∧ t.req = some w ∧ t.resp = Response.empty ∧
      t.phase = .busy .one .sel ∧ t.port = rest ∧ t.trace = s.trace ∧ t.sel = s.sel ∧ t.rx = s.rx ∧
      t.hostLog = s.hostLog ++ [.req w]

/-- A host's read of a response field gives its value; of a field that holds no value it is a fault of the reader
(rule R24, the spec's own decision D8). -/
def Obligations.ReadingNoValueIsAFault : Prop :=
  ∀ (s : State) (f : RespField) (rest : List HostMove), s.phase = .idle → s.port = .read f :: rest →
    (∀ v, s.resp.field f = some v →
      step s = .next { s with port := rest, hostLog := s.hostLog ++ [.got f v] }) ∧
    (s.resp.field f = none → step s = .fault (.noValue f))

/-- The host's branch on the result, and an engine with nothing to do (rule R95, decision D3; the
model's choices, log entries 4 and 8). -/
def Obligations.HostStopsAndIdleEngineWaits : Prop :=
  (∀ (s : State) (rest : List HostMove), s.phase = .idle → s.port = .stopUnlessSuccess :: rest →
    (s.resp.result = some .success → step s = .next { s with port := rest }) ∧
    (∀ r, s.resp.result = some r → r ≠ .success → step s = .next { s with port := [] }) ∧
    (s.resp.result = none → step s = .fault (.noValue .result))) ∧
  ∀ s : State, s.phase = .idle → s.port = [] → step s = .next s

/-- The reset state (rule R42, the spec's own decision D13). -/
def Obligations.ResetLeavesTheEngineIdle : Prop :=
  State.reset.phase = .idle ∧ State.reset.sel = .deasserted ∧ State.reset.req = none ∧
  State.reset.rx = Nine.const none ∧ State.reset.resp = ⟨none, none, none, none, none⟩ ∧ State.reset.trace = []

/-! Whole operations (40_register_access.md to 43_burst_decode.md). -/

/-- The request word and every run of WRREG, by the transport's answers (rules R121, R124). -/
def Obligations.WriteRegisterRuns : Prop :=
  ∀ (a : RegAddr) (d : Byte) (s : State), decode (packRequest 0b000#3 a d) = some (.wrreg a d) ∧
    ∃ t, exec (.wrreg a d) s = .next t ∧
    (statusAt s 0 = .fail →
      RanAs s t 1 [.selA, .tx [commandByte .write a] .fail, .selD] (Response.ofResult .busError) (Nine.const none)) ∧
    (statusAt s 0 = .ok → statusAt s 1 = .fail →
      RanAs s t 2 [.selA, .tx [commandByte .write a] .ok, .tx [d] .fail, .selD] (Response.ofResult .busError)
        (Nine.const none)) ∧
    (statusAt s 0 = .ok → statusAt s 1 = .ok →
      RanAs s t 2 [.selA, .tx [commandByte .write a] .ok, .tx [d] .ok, .selD] (Response.ofResult .success)
        (Nine.const none))

/-- The request word and every run of RDREG, by the transport's answers (rules R122, R124). -/
def Obligations.ReadRegisterRuns : Prop :=
  ∀ (a : RegAddr) (s : State), (∀ d, decode (packRequest 0b001#3 a d) = some (.rdreg a)) ∧
    ∃ t, exec (.rdreg a) s = .next t ∧
    (statusAt s 0 = .fail →
      RanAs s t 1 [.selA, .tx [commandByte .read a] .fail, .selD] (Response.ofResult .busError) (Nine.const none)) ∧
    (statusAt s 0 = .ok → statusAt s 1 = .fail →
      RanAs s t 2 [.selA, .tx [commandByte .read a] .ok, .rx 1 .fail none, .selD] (Response.ofResult .busError)
        (Nine.const none)) ∧
    (statusAt s 0 = .ok → statusAt s 1 = .ok →
      RanAs s t 2 [.selA, .tx [commandByte .read a] .ok, .rx 1 .ok (some [(deliveredAt s 1 a).b0]), .selD]
        (Response.ofByte (deliveredAt s 1 a).b0) (rxOne (deliveredAt s 1 a).b0))

/-- The request word and every run of SETODR (rules R140, R142, R146). -/
def Obligations.SetDataRateRuns : Prop :=
  ∀ (d : Byte) (s : State), (∀ a, decode (packRequest 0b010#3 a d) = some (.setodr d)) ∧
    SetVerifyRuns s (exec (.setodr d) s) s.params.odrAddr d

/-- The request word and every run of SETRNG (rules R140, R143, R146). -/
def Obligations.SetRangeRuns : Prop :=
  ∀ (d : Byte) (s : State), (∀ a, decode (packRequest 0b011#3 a d) = some (.setrng d)) ∧
    SetVerifyRuns s (exec (.setrng d) s) s.params.rangeAddr d

/-- The request word and every run of SETMEAS (rules R140, R144, R146). -/
def Obligations.SetMeasureRuns : Prop :=
  ∀ s : State, (∀ a d, decode (packRequest 0b100#3 a d) = some .setmeas) ∧
    SetVerifyRuns s (exec .setmeas s) s.params.pwrAddr s.params.measureEnc

/-- The request word and every run of CHKID, by the transport's answers (rules R160, R163). -/
def Obligations.CheckIdentityRuns : Prop :=
  ∀ s : State, (∀ a d, decode (packRequest 0b101#3 a d) = some .chkid) ∧ ∃ t, exec .chkid s = .next t ∧
    (statusAt s 0 = .fail →
      RanAs s t 1 [.selA, .tx [commandByte .read s.params.idAddr] .fail, .selD] (Response.ofResult .identityMismatch)
        (Nine.const none)) ∧
    (statusAt s 0 = .ok → statusAt s 1 = .fail →
      RanAs s t 2 [.selA, .tx [commandByte .read s.params.idAddr] .ok, .rx 1 .fail none, .selD]
        (Response.ofResult .identityMismatch) (Nine.const none)) ∧
    (statusAt s 0 = .ok → statusAt s 1 = .ok →
      RanAs s t 2 [.selA, .tx [commandByte .read s.params.idAddr] .ok,
        .rx 1 .ok (some [(deliveredAt s 1 s.params.idAddr).b0]), .selD]
        (Response.ofResult
          (if (deliveredAt s 1 s.params.idAddr).b0 = s.params.idValue then .success else .identityMismatch))
        (rxOne (deliveredAt s 1 s.params.idAddr).b0))

/-- CHKID returns Success if and only if both transfers returned OK and the byte is the identity constant; every other
run returns IdentityMismatch (rule R161). -/
def Obligations.CheckIdentityIff : Prop :=
  ∀ s : State, ∃ t, exec .chkid s = .next t ∧
    (t.resp.result = some .success ↔ statusAt s 0 = .ok ∧ statusAt s 1 = .ok ∧
      (deliveredAt s 1 s.params.idAddr).b0 = s.params.idValue) ∧
    (t.resp.result ≠ some .success → t.resp.result = some .identityMismatch)

/-- The request word and every run of RDXYZ, by the transport's answers (rules R171, R172, R185). -/
def Obligations.BurstRuns : Prop :=
  ∀ s : State, (∀ a d, decode (packRequest 0b110#3 a d) = some .rdxyz) ∧ ∃ t, exec .rdxyz s = .next t ∧
    (statusAt s 0 = .fail →
      RanAs s t 1 [.selA, .tx [commandByte .read s.params.dataAddr] .fail, .selD] (Response.ofResult .busError)
        (Nine.const none)) ∧
    (statusAt s 0 = .ok → statusAt s 1 = .fail →
      RanAs s t 2 [.selA, .tx [commandByte .read s.params.dataAddr] .ok, .rx 9 .fail none, .selD]
        (Response.ofResult .busError) (Nine.const none)) ∧
    (statusAt s 0 = .ok → statusAt s 1 = .ok →
      RanAs s t 2 [.selA, .tx [commandByte .read s.params.dataAddr] .ok,
        .rx 9 .ok (some (deliveredAt s 1 s.params.dataAddr).toList), .selD]
        (Response.ofAxes (decodeFrame s.params.recon (deliveredAt s 1 s.params.dataAddr)).x
          (decodeFrame s.params.recon (deliveredAt s 1 s.params.dataAddr)).y
          (decodeFrame s.params.recon (deliveredAt s 1 s.params.dataAddr)).z)
        ((deliveredAt s 1 s.params.dataAddr).map some))

/-- Every operation completes, whatever the state and the transport's answers: one response handed over, the engine
idle, select deasserted (rules R31, R200, R203). -/
def Obligations.EveryOperationCompletes : Prop :=
  ∀ (i : Instr) (s : State), ∃ t, exec i s = .next t ∧ t.phase = .idle ∧ t.sel = .deasserted ∧
    t.resp.result.isSome = true ∧ t.hostLog = s.hostLog ++ [.resp t.resp]

/-- Which response fields hold a value after completion (rule R23, the spec's own decision D8). -/
def Obligations.ResponseFieldsAfterCompletion : Prop :=
  ∀ (i : Instr) (s : State), ∃ t, exec i s = .next t ∧ t.resp.result.isSome = true ∧
    (t.resp.rdata.isSome = true ↔ t.resp.result = some .success ∧ ∃ a, i = .rdreg a) ∧
    (t.resp.x.isSome = true ↔ t.resp.result = some .success ∧ i = .rdxyz) ∧
    (t.resp.y.isSome = true ↔ t.resp.result = some .success ∧ i = .rdxyz) ∧
    (t.resp.z.isSome = true ↔ t.resp.result = some .success ∧ i = .rdxyz)

/-- The causes of the results that are not Success, each exactly when, and no value recorded with any of them (rules
R201, R202). -/
def Obligations.ResultsHaveTheirCauses : Prop :=
  ∀ (i : Instr) (s : State), ∃ t, exec i s = .next t ∧
    t.resp.result ≠ some .genericError ∧
    (t.resp.result = some .busError ↔ i ≠ .chkid ∧ ∃ k, k < transferCount i ∧ statusAt s k = .fail) ∧
    (t.resp.result = some .readbackMismatch ↔ transferCount i = 4 ∧ (∀ k, k < 4 → statusAt s k = .ok) ∧
      ∃ b, t.rx.b0 = some b ∧ b ≠ writtenValue s.params i) ∧
    (t.resp.result = some .identityMismatch ↔ i = .chkid ∧
      ((∃ k, k < 2 ∧ statusAt s k = .fail) ∨
        (∀ k, k < 2 → statusAt s k = .ok) ∧ (deliveredAt s 1 s.params.idAddr).b0 ≠ s.params.idValue)) ∧
    ∀ r, t.resp.result = some r → r ≠ .success → t.resp = Response.ofResult r

/-- A failure injected at any transfer of any operation: the result, no later transfer, and select released last
(rules R114, R214). -/
def Obligations.FailureInjectedAnywhere : Prop :=
  ∀ (i : Instr) (s : State) (k : Nat), k < transferCount i → (∀ j, j < k → statusAt s j = .ok) →
    statusAt s k = .fail → ∃ t ev, exec i s = .next t ∧ t.trace = s.trace ++ ev ∧
      t.resp = Response.ofResult (if i = .chkid then .identityMismatch else .busError) ∧
      (ev.filter isTransfer).length = k + 1 ∧ ev.getLast? = some .selD ∧ t.sel = .deasserted ∧ t.phase = .idle

/-- The event counts of an operation in which no transfer fails (rule R238). -/
def Obligations.EventCountsWithoutFailure : Prop :=
  ∀ (i : Instr) (s : State), (∀ k, k < transferCount i → statusAt s k = .ok) →
    ∃ t ev, exec i s = .next t ∧ t.trace = s.trace ++ ev ∧ ev.length = 2 * transferCount i ∧
      (ev.filter isTransfer).length = transferCount i ∧
      (ev.map bytesSent).sum = sentCount i ∧ (ev.map bytesReceived).sum = receivedCount i

/-- Every transfer is called with the handle's bus and timeout, unchanged, and every select drive with its select
identity (rules R32, R33, R34, R117). -/
def Obligations.EveryCallCarriesTheHandle : Prop :=
  ∀ (i : Instr) (s : State), ∃ t ev, exec i s = .next t ∧ t.trace = s.trace ++ ev ∧
    t.calls = s.calls ++ ev.map (callOf s.handle)

/-- What no operation changes: the latched request, the handle, the constants, the host's moves (frame; rules R25, R36,
R37). -/
def Obligations.OperationsLeaveTheRestAlone : Prop :=
  ∀ (i : Instr) (s t : State), exec i s = .next t →
    t.req = s.req ∧ t.handle = s.handle ∧ t.params = s.params ∧ t.port = s.port ∧ t.devMode = s.devMode ∧
    ∃ ev n, t.trace = s.trace ++ ev ∧ t.answers = s.answers.drop n ∧ n ≤ transferCount i

/-- What an operation's trace and response depend on: the constants, the transport's answers and the device; nothing an
earlier operation left (rules R20, R119, R207). -/
def Obligations.OperationsForgetTheirPast : Prop :=
  ∀ (i : Instr) (s s' t : State), SameInputs s s' → exec i s = .next t →
    ∃ t' ev, exec i s' = .next t' ∧ t.trace = s.trace ++ ev ∧ t'.trace = s'.trace ++ ev ∧ t'.resp = t.resp ∧
      SameInputs t t'

/-! The device's register space (20_memory.md). -/

/-- RDREG, CHKID and RDXYZ change no cell of the ideal-device fixture, also when a transfer fails, which is the model's
inference (DEDUCED, log entry 7: rule R62 speaks of a transport that always returns OK); with the oracle on the bus no
operation changes the fixture's cells, which are then unused (the model's choice, log entry 6; the real device may change
at any time, decision D26). Frame; rule R62, the spec's own decision D22. -/
def Obligations.ReadsLeaveTheDeviceAlone : Prop :=
  (∀ (i : Instr) (s t : State), i = .chkid ∨ i = .rdxyz ∨ (∃ a, i = .rdreg a) → exec i s = .next t →
    ∀ b, cellsRead t.dev b = cellsRead s.dev b) ∧
  ∀ (i : Instr) (s t : State), s.devMode = .oracle → exec i s = .next t →
    ∀ b, cellsRead t.dev b = cellsRead s.dev b

/-- WRREG and the SET operations change at most the cell of the ideal-device fixture at the address they write (frame;
rules R51, R62, the spec's own decision D22). That a failed write changes no other cell is the model's choice (DESIGN
CHOICE, unsafe, log entry 7; rule R64, decision D16, is silent on the other registers). -/
def Obligations.WritesChangeOneDeviceByte : Prop :=
  (∀ (a : RegAddr) (d : Byte) (s t : State), exec (.wrreg a d) s = .next t →
    ∀ b, b ≠ a.toNat → cellsRead t.dev b = cellsRead s.dev b) ∧
  (∀ (d : Byte) (s t : State), exec (.setodr d) s = .next t →
    ∀ b, b ≠ s.params.odrAddr.toNat → cellsRead t.dev b = cellsRead s.dev b) ∧
  (∀ (d : Byte) (s t : State), exec (.setrng d) s = .next t →
    ∀ b, b ≠ s.params.rangeAddr.toNat → cellsRead t.dev b = cellsRead s.dev b) ∧
  ∀ s t : State, exec .setmeas s = .next t →
    ∀ b, b ≠ s.params.pwrAddr.toNat → cellsRead t.dev b = cellsRead s.dev b

/-- With the ideal device and both transmits OK, a write is taken (rule R62, the spec's own decision D22). -/
def Obligations.IdealDeviceTakesTheWrite : Prop :=
  ∀ (a : RegAddr) (d : Byte) (s : State), s.devMode = .ideal → cellsWf s.dev = true → statusAt s 0 = .ok →
    statusAt s 1 = .ok → ∃ t, exec (.wrreg a d) s = .next t ∧ cellsRead t.dev a.toNat = d

/-- With the ideal device, a WRREG whose command or value transmit failed leaves the register a free value
(rule R64, the spec's own decision D16; the model's free value, log entry 7). -/
def Obligations.FailedWriteLeavesAFreeValue : Prop :=
  ∀ (a : RegAddr) (d : Byte) (s : State), s.devMode = .ideal → cellsWf s.dev = true →
    (statusAt s 0 = .fail ∨ statusAt s 1 = .fail) →
    ∃ t, exec (.wrreg a d) s = .next t ∧ t.resp = Response.ofResult .busError ∧
      cellsRead t.dev a.toNat = Config.devContent s.draws

/-- The round-trip property of the ideal device under a fault-free transport (rule R62, the spec's own
decision D22; 90_conflicts.md C5). -/
def Obligations.WriteThenReadReturnsTheValue : Prop :=
  ∀ (a : RegAddr) (v : Byte) (s : State), s.devMode = .ideal → cellsWf s.dev = true → s.answers = [] →
    ∃ t u, exec (.wrreg a v) s = .next t ∧ exec (.rdreg a) t = .next u ∧ u.resp = Response.ofByte v

/-- The ideal device answers a burst with the nine registers from `DATA_BASE` upward (rules R62,
R65, the spec's own decision D22). -/
def Obligations.IdealBurstReadsNineRegisters : Prop :=
  ∀ s : State, s.devMode = .ideal → s.answers = [] → ∃ t, exec .rdxyz s = .next t ∧
    t.rx.toList = (List.range 9).map fun k => some (cellsRead s.dev (s.params.dataBase.val + k))

/-- The canonical form of the device's register space is kept by every step, at both grains (the model's own
invariant, log entry 6). -/
def Obligations.DeviceCellsStayCanonical : Prop :=
  (∀ s t : State, cellsWf s.dev = true → step s = .next t → cellsWf t.dev = true) ∧
  ∀ s t : State, cellsWf s.dev = true → eventStep s = .next t → cellsWf t.dev = true

/-! The frame decoder (43_burst_decode.md). -/

/-- Reconstruction: twelve zero bits, then the three bytes without the four padding bits (rule R174, the spec's own
decision D7). -/
def Obligations.ReconstructionBits : Prop :=
  ∀ b0 b1 b2 : Byte, recon b0 b1 b2 = (0#12 ++ b0 ++ b1 ++ b2.extractLsb' 4 4 : BitVec 32) ∧
    recon b0 b1 b2 = (zext32 b0 <<< 12) ||| (zext32 b1 <<< 4) ||| (zext32 b2 >>> 4)

/-- The other reading: `{b0, b1, 0000, b2[7:4]}`; it is what `RECON_MODE` LITERAL selects; sign extension of it tests
`b0[3]`; it never gives `0x7FFFF` or `0xFFFFF`, nor an axis of 524287 or -1, and agrees with the normative reading
exactly for `b0 = b1 = 0` (rule R175, the spec's own decision D7; 95_test_vectors.md L2-E). -/
def Obligations.LiteralReconstructionBits : Prop :=
  (∀ b0 b1 b2 : Byte, reconLiteral b0 b1 b2 = (0#8 ++ b0 ++ b1 ++ 0#4 ++ b2.extractLsb' 4 4 : BitVec 32) ∧
    axisOf .literal b0 b1 b2 = sx20 (0#8 ++ b0 ++ b1 ++ 0#4 ++ b2.extractLsb' 4 4 : BitVec 32) ∧
    (axisOf .literal b0 b1 b2).toInt =
      (if b0.getLsbD 3 then ((reconLiteral b0 b1 b2 &&& 0x7FFFF#32).toNat : Int) - 0x80000
      else ((reconLiteral b0 b1 b2).toNat : Int)) ∧
    reconLiteral b0 b1 b2 ≠ 0x7FFFF#32 ∧ reconLiteral b0 b1 b2 ≠ 0xFFFFF#32 ∧
    (axisOf .literal b0 b1 b2).toInt ≠ 524287 ∧ (axisOf .literal b0 b1 b2).toInt ≠ -1 ∧
    (reconLiteral b0 b1 b2 = recon b0 b1 b2 ↔ b0 = 0#8 ∧ b1 = 0#8)) ∧
  (axisOf .literal 0x80#8 0x00#8 0x00#8).toInt = 8388608

/-- Sign extension of a 20-bit value (rule R176) and its equivalent forms (rule R177, which the spec derives). -/
def Obligations.SignExtensionForms : Prop :=
  ∀ u : Word32, u.toNat < 2 ^ 20 →
    (sx20 u).toInt = (if u.getLsbD 19 then ((u &&& 0x7FFFF#32).toNat : Int) - 0x80000 else (u.toNat : Int)) ∧
    sx20 u = (u.setWidth 20).signExtend 32 ∧
    (sx20 u).toInt = (if 2 ^ 19 ≤ u.toNat then (u.toNat : Int) - 2 ^ 20 else (u.toNat : Int)) ∧
    sx20 u = (u ^^^ 0x80000#32) - 0x80000#32

/-- A decoded axis is the sign-extended 20-bit sample, and the arithmetic shift by 12 of the left-justified word
(rule R177). -/
def Obligations.AxisIsTheSignExtendedSample : Prop :=
  ∀ b0 b1 b2 : Byte, sx20 (recon b0 b1 b2) = (b0 ++ b1 ++ b2.extractLsb' 4 4 : BitVec 20).signExtend 32 ∧
    sx20 (recon b0 b1 b2) = ((b0 ++ b1 ++ b2 ++ 0#8 : BitVec 32).sshiftRight 12)

/-- The range of a decoded axis, every value of it reached (rule R180). -/
def Obligations.AxisRangeIsExact : Prop :=
  (∀ b0 b1 b2 : Byte, (recon b0 b1 b2).toNat ≤ 0xFFFFF ∧ -524288 ≤ (sx20 (recon b0 b1 b2)).toInt ∧
    (sx20 (recon b0 b1 b2)).toInt ≤ 524287) ∧
  ∀ v : Int, -524288 ≤ v → v ≤ 524287 → ∃ b0 b1 b2 : Byte, (sx20 (recon b0 b1 b2)).toInt = v

/-- The padding bits never reach the result (rule R182). -/
def Obligations.PaddingIsIgnored : Prop :=
  ∀ b0 b1 b2 p : Byte, p.toNat < 16 → recon b0 b1 ((b2 &&& 0xF0#8) ||| p) = recon b0 b1 (b2 &&& 0xF0#8)

/-- The boundary table of the source (rule R183). -/
def Obligations.SignExtensionBoundaryTable : Prop :=
  (sx20 0x00000#32).toInt = 0 ∧ (sx20 0x7FFFF#32).toInt = 524287 ∧ (sx20 0x80000#32).toInt = -524288 ∧
  (sx20 0xFFFFF#32).toInt = -1

/-- Sign extension is injective, strictly increasing on each half, keeps the low 20 bits and never gives the negation of
the most negative sample; bytes built from a sample decode to it (rule R184). -/
def Obligations.SampleBytesDecodeBack : Prop :=
  (∀ u v : Word32, u.toNat < 2 ^ 20 → v.toNat < 2 ^ 20 → sx20 u = sx20 v → u = v) ∧
  (∀ u v : Word32, u.toNat < v.toNat → (v.toNat < 2 ^ 19 ∨ 2 ^ 19 ≤ u.toNat ∧ v.toNat < 2 ^ 20) →
    (sx20 u).toInt < (sx20 v).toInt) ∧
  (∀ u : Word32, u.toNat < 2 ^ 20 → (sx20 u).setWidth 20 = u.setWidth 20 ∧ (sx20 u).toInt ≠ 524288) ∧
  ∀ v : Word32, -524288 ≤ v.toInt → v.toInt ≤ 524287 →
    sx20 (recon (sampleBytes v).1 (sampleBytes v).2.1 (sampleBytes v).2.2) = v

/-- Under either `RECON_MODE` bytes 0 to 2 are X, 3 to 5 are Y, 6 to 8 are Z, the same function of each group: the sign
extension of the reconstruction the mode selects, `recon` for CONCAT_SHIFT and `reconLiteral` for LITERAL (rules R178,
R179; that there are two modes is the spec's own decision D7, rules R174, R175). -/
def Obligations.AxisMapping : Prop :=
  (∀ (m : ReconMode) (bs : Nine Byte), decodeFrame m bs =
    ⟨sx20 (reconBy m bs.b0 bs.b1 bs.b2), sx20 (reconBy m bs.b3 bs.b4 bs.b5), sx20 (reconBy m bs.b6 bs.b7 bs.b8)⟩) ∧
  (∀ b0 b1 b2 : Byte, reconBy .concatShift b0 b1 b2 = recon b0 b1 b2 ∧
    reconBy .literal b0 b1 b2 = reconLiteral b0 b1 b2) ∧
  decodeFrame .concatShift ⟨0x00, 0x00, 0x10, 0x00, 0x00, 0x20, 0x00, 0x00, 0x30⟩ = ⟨1#32, 2#32, 3#32⟩ ∧
  decodeFrame .literal ⟨0x01, 0x23, 0x40, 0x02, 0x34, 0x50, 0x03, 0x45, 0x60⟩ = ⟨74500#32, 144389#32, 214278#32⟩

/-! The sequencer (40_register_access.md) and the invariants of the machine. -/

/-- The table of rule R116 and the operation as one atomic function agree: from an idle engine to which a request is
presented, at most nine event steps reach exactly the state that one step reaches (90_conflicts.md C7; the
spec's own decision D20). -/
def Obligations.SequencerRefinesTheOperation : Prop :=
  ∀ (s : State) (w : ReqWord) (rest : List HostMove) (i : Instr), s.phase = .idle → s.port = .request w :: rest →
    decode w = some i → ∃ n t, n ≤ 9 ∧ eventRun n s = .next t ∧ step s = .next t

/-- Each step of a busy engine causes exactly one bus event, and takes no request (rules R25, R116, the
spec's own decision D20). -/
def Obligations.BusyStepCausesOneEvent : Prop :=
  ∀ (s t : State), s.phase ≠ .idle → eventStep s = .next t →
    (∃ e, t.trace = s.trace ++ [e]) ∧ t.req = s.req ∧ t.port = s.port

/-- Under the invariant a busy engine always has an enabled step (rule R216). -/
def Obligations.BusyEngineIsNeverStuck : Prop :=
  ∀ s : State, Inv s → s.phase ≠ .idle → ∃ t, eventStep s = .next t

/-- The select line follows the phase, at every step of both grains (rule R28). -/
def Obligations.SelectLineFollowsThePhase : Prop :=
  (∀ s t : State, s.sel = selFor s.phase → eventStep s = .next t → t.sel = selFor t.phase) ∧
  ∀ s t : State, s.sel = selFor s.phase → step s = .next t → t.sel = selFor t.phase

/-- The reset state meets the invariant. -/
def Obligations.ResetMeetsTheInvariant : Prop := Inv State.reset

/-- Every step of rule R116 and every move of the host keeps the invariant (rules R23, R26, R28, R114, R115). -/
def Obligations.EventStepKeepsTheInvariant : Prop :=
  ∀ s t : State, Inv s → eventStep s = .next t → Inv t

/-- Every step of the machine keeps the invariant (rules R23, R26, R28, R114, R115). -/
def Obligations.StepKeepsTheInvariant : Prop :=
  ∀ s t : State, Inv s → step s = .next t → Inv t

/-- No step changes the handle or the constants (rules R36, R37). -/
def Obligations.ConfigurationIsConstant : Prop :=
  (∀ s t : State, step s = .next t → t.handle = s.handle ∧ t.params = s.params ∧ t.devMode = s.devMode) ∧
  ∀ s t : State, eventStep s = .next t → t.handle = s.handle ∧ t.params = s.params ∧ t.devMode = s.devMode

/-- With the normative reconstruction, the axes a response holds are always in range (rules R22, R180). -/
def Obligations.ResponseAxesStayInRange : Prop :=
  ∀ s t : State, s.params.recon = .concatShift → respInRange s.resp = true → step s = .next t →
    respInRange t.resp = true

/-- No step of either grain ever puts GenericError into the response (rule R202). -/
def Obligations.GenericErrorIsNeverProduced : Prop :=
  (∀ s t : State, s.resp.result ≠ some .genericError → step s = .next t → t.resp.result ≠ some .genericError) ∧
  ∀ s t : State, s.resp.result ≠ some .genericError → eventStep s = .next t → t.resp.result ≠ some .genericError

/-- The SET operations and their expansions into WRREG and RDREG give the same trace and the same result, for every
answer of the transport (rule R96). -/
def Obligations.SetOperationsEqualTheirExpansions : Prop :=
  ∀ s : State,
    (∀ d, ∃ t r u, exec (.setodr d) s = .next t ∧ expandSet s.params.odrAddr d s = some (r, u) ∧
      t.trace = u.trace ∧ t.resp.result = some r ∧ SameInputs t u) ∧
    (∀ d, ∃ t r u, exec (.setrng d) s = .next t ∧ expandSet s.params.rangeAddr d s = some (r, u) ∧
      t.trace = u.trace ∧ t.resp.result = some r ∧ SameInputs t u) ∧
    ∃ t r u, exec .setmeas s = .next t ∧ expandSet s.params.pwrAddr s.params.measureEnc s = some (r, u) ∧
      t.trace = u.trace ∧ t.resp.result = some r ∧ SameInputs t u

/-- CHKID and its expansion into RDREG give the same trace and the same result (rule R96). -/
def Obligations.CheckIdentityEqualsItsExpansion : Prop :=
  ∀ s : State, ∃ t r u, exec .chkid s = .next t ∧ expandChkid s = some (r, u) ∧
    t.trace = u.trace ∧ t.resp.result = some r ∧ SameInputs t u
end

