-- ==== Sys2Proof/Laws/Memory.lean ====
section
/-! SUPPORT. The device's register space: every operation keeps the canonical form; a read after a write (rules R50, R62). -/

namespace Sys2Proof.Machine

theorem cellsWf_reset : cellsWf State.reset.dev = true := rfl

/-- Weakening the lower bound of a canonical list. -/
theorem cellsWfFrom_mono {lo lo' : Nat} (h : lo' ≤ lo) {m : List Host.Cell} (hm : cellsWfFrom lo m = true) :
    cellsWfFrom lo' m = true := by
  cases m with
  | nil => rfl
  | cons c rest =>
    simp only [cellsWfFrom, Bool.and_eq_true, decide_eq_true_eq] at hm ⊢
    exact ⟨⟨⟨by omega, hm.1.1.2⟩, hm.1.2⟩, hm.2⟩

theorem cellsCons_wf {lo a : Nat} {v : Byte} {m : List Host.Cell} (ha : lo ≤ a) (ha' : a < 128)
    (hm : cellsWfFrom (a + 1) m = true) : cellsWfFrom lo (cellsCons a v m) = true := by
  unfold cellsCons
  split
  · exact cellsWfFrom_mono (by omega) hm
  · rename_i hv
    simp [cellsWfFrom, ha, ha', hv, hm]

theorem cellsWrite_wfFrom {a : Nat} (ha' : a < 128) (v : Byte) (m : List Host.Cell) :
    ∀ lo, lo ≤ a → cellsWfFrom lo m = true → cellsWfFrom lo (cellsWrite m a v) = true := by
  induction m with
  | nil => intro lo ha _; exact cellsCons_wf ha ha' rfl
  | cons c rest ih =>
    intro lo ha hm
    have hc := hm
    simp only [cellsWfFrom, Bool.and_eq_true, decide_eq_true_eq] at hc
    unfold cellsWrite
    split
    · rename_i h
      refine cellsCons_wf ha ha' ?_
      simp only [cellsWfFrom, Bool.and_eq_true, decide_eq_true_eq]
      exact ⟨⟨⟨by omega, hc.1.1.2⟩, hc.1.2⟩, hc.2⟩
    · split
      · rename_i h
        exact cellsCons_wf ha ha' (h ▸ hc.2)
      · simp only [cellsWfFrom, Bool.and_eq_true, decide_eq_true_eq]
        exact ⟨hc.1, ih _ (by omega) hc.2⟩

/-- A write keeps the canonical form. -/
theorem cellsWrite_wf {m : List Host.Cell} (hm : cellsWf m = true) (a : RegAddr) (v : Byte) :
    cellsWf (cellsWrite m a.toNat v) = true :=
  cellsWrite_wfFrom a.isLt v m 0 (Nat.zero_le _) hm

/-- An address below a canonical list is not listed. -/
theorem cellsRead_below {m : List Host.Cell} {lo a : Nat} (hm : cellsWfFrom lo m = true) (ha : a < lo) :
    cellsRead m a = unlistedByte := by
  induction m generalizing lo with
  | nil => rfl
  | cons c rest ih =>
    simp only [cellsWfFrom, Bool.and_eq_true, decide_eq_true_eq] at hm
    unfold cellsRead
    rw [if_neg (by omega)]
    exact ih hm.2 (by omega)

theorem cellsRead_cons_self {a : Nat} {v : Byte} {m : List Host.Cell} (hm : cellsWfFrom (a + 1) m = true) :
    cellsRead (cellsCons a v m) a = v := by
  unfold cellsCons
  split
  · rename_i h; rw [cellsRead_below hm (by omega), h]
  · simp [cellsRead]

theorem cellsRead_cons_ne {a b : Nat} {v : Byte} {m : List Host.Cell} (h : b ≠ a) :
    cellsRead (cellsCons a v m) b = cellsRead m b := by
  unfold cellsCons
  split
  · rfl
  · simp only [cellsRead]
    rw [if_neg fun e : a = b => h e.symm]

theorem cellsRead_write_self_from (a : Nat) (v : Byte) (m : List Host.Cell) :
    ∀ lo, cellsWfFrom lo m = true → cellsRead (cellsWrite m a v) a = v := by
  induction m with
  | nil => intro _ _; exact cellsRead_cons_self rfl
  | cons c rest ih =>
    intro lo hm
    have hc := hm
    simp only [cellsWfFrom, Bool.and_eq_true, decide_eq_true_eq] at hc
    unfold cellsWrite
    split
    · rename_i h
      refine cellsRead_cons_self ?_
      simp only [cellsWfFrom, Bool.and_eq_true, decide_eq_true_eq]
      exact ⟨⟨⟨by omega, hc.1.1.2⟩, hc.1.2⟩, hc.2⟩
    · split
      · rename_i h
        exact cellsRead_cons_self (h ▸ hc.2)
      · unfold cellsRead
        rw [if_neg (by omega)]
        exact ih _ hc.2

/-- A read after a write to the same address gives the byte written. -/
theorem cellsRead_write_self {m : List Host.Cell} (hm : cellsWf m = true) (a : Nat) (v : Byte) :
    cellsRead (cellsWrite m a v) a = v :=
  cellsRead_write_self_from a v m 0 hm

/-- A write leaves every other address alone. -/
theorem cellsRead_write_ne (m : List Host.Cell) {a b : Nat} (h : b ≠ a) (v : Byte) :
    cellsRead (cellsWrite m a v) b = cellsRead m b := by
  induction m with
  | nil => exact cellsRead_cons_ne h
  | cons c rest ih =>
    unfold cellsWrite
    split
    · exact cellsRead_cons_ne h
    · split
      · rename_i hc
        rw [cellsRead_cons_ne h]
        simp only [cellsRead]
        rw [if_neg fun e : c.1 = b => h (by omega)]
      · simp only [cellsRead, ih]

end Sys2Proof.Machine
end

