-- ==== Sys2Proof/Laws/State.lean ====
section
/-! SUPPORT. One lemma per field per update of `State`, each true by unfolding. -/

namespace Sys2Proof.Machine

section clearRxFields
variable (s : State)

@[simp] theorem State.clearRx_phase : s.clearRx.phase = s.phase := rfl
@[simp] theorem State.clearRx_sel : s.clearRx.sel = s.sel := rfl
@[simp] theorem State.clearRx_req : s.clearRx.req = s.req := rfl
@[simp] theorem State.clearRx_rx : s.clearRx.rx = Nine.const none := rfl
@[simp] theorem State.clearRx_resp : s.clearRx.resp = s.resp := rfl
@[simp] theorem State.clearRx_trace : s.clearRx.trace = s.trace := rfl
@[simp] theorem State.clearRx_calls : s.clearRx.calls = s.calls := rfl
@[simp] theorem State.clearRx_handle : s.clearRx.handle = s.handle := rfl
@[simp] theorem State.clearRx_params : s.clearRx.params = s.params := rfl
@[simp] theorem State.clearRx_port : s.clearRx.port = s.port := rfl
@[simp] theorem State.clearRx_hostLog : s.clearRx.hostLog = s.hostLog := rfl
@[simp] theorem State.clearRx_answers : s.clearRx.answers = s.answers := rfl
@[simp] theorem State.clearRx_draws : s.clearRx.draws = s.draws := rfl
@[simp] theorem State.clearRx_devMode : s.clearRx.devMode = s.devMode := rfl
@[simp] theorem State.clearRx_dev : s.clearRx.dev = s.dev := rfl
@[simp] theorem State.clearRx_devCmd : s.clearRx.devCmd = s.devCmd := rfl

end clearRxFields

section selAssertFields
variable (s : State)

@[simp] theorem State.selAssert_phase : s.selAssert.phase = s.phase := rfl
@[simp] theorem State.selAssert_sel : s.selAssert.sel = .asserted := rfl
@[simp] theorem State.selAssert_req : s.selAssert.req = s.req := rfl
@[simp] theorem State.selAssert_rx : s.selAssert.rx = s.rx := rfl
@[simp] theorem State.selAssert_resp : s.selAssert.resp = s.resp := rfl
@[simp] theorem State.selAssert_trace : s.selAssert.trace = s.trace ++ [.selA] := rfl
@[simp] theorem State.selAssert_calls : s.selAssert.calls = s.calls ++ [.assertSel s.handle.sel] := rfl
@[simp] theorem State.selAssert_handle : s.selAssert.handle = s.handle := rfl
@[simp] theorem State.selAssert_params : s.selAssert.params = s.params := rfl
@[simp] theorem State.selAssert_port : s.selAssert.port = s.port := rfl
@[simp] theorem State.selAssert_hostLog : s.selAssert.hostLog = s.hostLog := rfl
@[simp] theorem State.selAssert_answers : s.selAssert.answers = s.answers := rfl
@[simp] theorem State.selAssert_draws : s.selAssert.draws = s.draws := rfl
@[simp] theorem State.selAssert_devMode : s.selAssert.devMode = s.devMode := rfl
@[simp] theorem State.selAssert_dev : s.selAssert.dev = s.dev := rfl
@[simp] theorem State.selAssert_devCmd : s.selAssert.devCmd = none := rfl

end selAssertFields

section selDeassertFields
variable (s : State)

@[simp] theorem State.selDeassert_phase : s.selDeassert.phase = s.phase := rfl
@[simp] theorem State.selDeassert_sel : s.selDeassert.sel = .deasserted := rfl
@[simp] theorem State.selDeassert_req : s.selDeassert.req = s.req := rfl
@[simp] theorem State.selDeassert_rx : s.selDeassert.rx = s.rx := rfl
@[simp] theorem State.selDeassert_resp : s.selDeassert.resp = s.resp := rfl
@[simp] theorem State.selDeassert_trace : s.selDeassert.trace = s.trace ++ [.selD] := rfl
@[simp] theorem State.selDeassert_calls : s.selDeassert.calls = s.calls ++ [.deassertSel s.handle.sel] := rfl
@[simp] theorem State.selDeassert_handle : s.selDeassert.handle = s.handle := rfl
@[simp] theorem State.selDeassert_params : s.selDeassert.params = s.params := rfl
@[simp] theorem State.selDeassert_port : s.selDeassert.port = s.port := rfl
@[simp] theorem State.selDeassert_hostLog : s.selDeassert.hostLog = s.hostLog := rfl
@[simp] theorem State.selDeassert_answers : s.selDeassert.answers = s.answers := rfl
@[simp] theorem State.selDeassert_draws : s.selDeassert.draws = s.draws := rfl
@[simp] theorem State.selDeassert_devMode : s.selDeassert.devMode = s.devMode := rfl
@[simp] theorem State.selDeassert_dev : s.selDeassert.dev = s.dev := rfl
@[simp] theorem State.selDeassert_devCmd : s.selDeassert.devCmd = none := rfl

end selDeassertFields

section logTxFields
variable (s : State) (b : Byte) (st : Status)

@[simp] theorem State.logTx_phase : (s.logTx b st).phase = s.phase := rfl
@[simp] theorem State.logTx_sel : (s.logTx b st).sel = s.sel := rfl
@[simp] theorem State.logTx_req : (s.logTx b st).req = s.req := rfl
@[simp] theorem State.logTx_rx : (s.logTx b st).rx = s.rx := rfl
@[simp] theorem State.logTx_resp : (s.logTx b st).resp = s.resp := rfl
@[simp] theorem State.logTx_trace : (s.logTx b st).trace = s.trace ++ [.tx [b] st] := rfl
@[simp] theorem State.logTx_calls : (s.logTx b st).calls = s.calls ++ [.transmit s.handle.bus [b] s.handle.timeout] := rfl
@[simp] theorem State.logTx_handle : (s.logTx b st).handle = s.handle := rfl
@[simp] theorem State.logTx_params : (s.logTx b st).params = s.params := rfl
@[simp] theorem State.logTx_port : (s.logTx b st).port = s.port := rfl
@[simp] theorem State.logTx_hostLog : (s.logTx b st).hostLog = s.hostLog := rfl
@[simp] theorem State.logTx_answers : (s.logTx b st).answers = s.answers := rfl
@[simp] theorem State.logTx_draws : (s.logTx b st).draws = s.draws := rfl
@[simp] theorem State.logTx_devMode : (s.logTx b st).devMode = s.devMode := rfl
@[simp] theorem State.logTx_dev : (s.logTx b st).dev = s.dev := rfl
@[simp] theorem State.logTx_devCmd : (s.logTx b st).devCmd = s.devCmd := rfl

end logTxFields

section logRxFields
variable (s : State) (n : RxLen) (st : Status) (bs : Option (List Byte))

@[simp] theorem State.logRx_phase : (s.logRx n st bs).phase = s.phase := rfl
@[simp] theorem State.logRx_sel : (s.logRx n st bs).sel = s.sel := rfl
@[simp] theorem State.logRx_req : (s.logRx n st bs).req = s.req := rfl
@[simp] theorem State.logRx_rx : (s.logRx n st bs).rx = s.rx := rfl
@[simp] theorem State.logRx_resp : (s.logRx n st bs).resp = s.resp := rfl
@[simp] theorem State.logRx_trace : (s.logRx n st bs).trace = s.trace ++ [.rx n.toNat st bs] := rfl
@[simp] theorem State.logRx_calls : (s.logRx n st bs).calls = s.calls ++ [.receive s.handle.bus n.toNat s.handle.timeout] := rfl
@[simp] theorem State.logRx_handle : (s.logRx n st bs).handle = s.handle := rfl
@[simp] theorem State.logRx_params : (s.logRx n st bs).params = s.params := rfl
@[simp] theorem State.logRx_port : (s.logRx n st bs).port = s.port := rfl
@[simp] theorem State.logRx_hostLog : (s.logRx n st bs).hostLog = s.hostLog := rfl
@[simp] theorem State.logRx_answers : (s.logRx n st bs).answers = s.answers := rfl
@[simp] theorem State.logRx_draws : (s.logRx n st bs).draws = s.draws := rfl
@[simp] theorem State.logRx_devMode : (s.logRx n st bs).devMode = s.devMode := rfl
@[simp] theorem State.logRx_dev : (s.logRx n st bs).dev = s.dev := rfl
@[simp] theorem State.logRx_devCmd : (s.logRx n st bs).devCmd = s.devCmd := rfl

end logRxFields

section completeFields
variable (s : State) (r : Response)

@[simp] theorem State.complete_phase : (s.complete r).phase = .idle := rfl
@[simp] theorem State.complete_sel : (s.complete r).sel = s.sel := rfl
@[simp] theorem State.complete_req : (s.complete r).req = s.req := rfl
@[simp] theorem State.complete_rx : (s.complete r).rx = s.rx := rfl
@[simp] theorem State.complete_resp : (s.complete r).resp = r := rfl
@[simp] theorem State.complete_trace : (s.complete r).trace = s.trace := rfl
@[simp] theorem State.complete_calls : (s.complete r).calls = s.calls := rfl
@[simp] theorem State.complete_handle : (s.complete r).handle = s.handle := rfl
@[simp] theorem State.complete_params : (s.complete r).params = s.params := rfl
@[simp] theorem State.complete_port : (s.complete r).port = s.port := rfl
@[simp] theorem State.complete_hostLog : (s.complete r).hostLog = s.hostLog ++ [.resp r] := rfl
@[simp] theorem State.complete_answers : (s.complete r).answers = s.answers := rfl
@[simp] theorem State.complete_draws : (s.complete r).draws = s.draws := rfl
@[simp] theorem State.complete_devMode : (s.complete r).devMode = s.devMode := rfl
@[simp] theorem State.complete_dev : (s.complete r).dev = s.dev := rfl
@[simp] theorem State.complete_devCmd : (s.complete r).devCmd = s.devCmd := rfl

end completeFields

section takeRequestFields
variable (s : State) (w : ReqWord)

@[simp] theorem State.takeRequest_phase : (s.takeRequest w).phase = .busy .one .sel := rfl
@[simp] theorem State.takeRequest_sel : (s.takeRequest w).sel = s.sel := rfl
@[simp] theorem State.takeRequest_req : (s.takeRequest w).req = some w := rfl
@[simp] theorem State.takeRequest_rx : (s.takeRequest w).rx = s.rx := rfl
@[simp] theorem State.takeRequest_resp : (s.takeRequest w).resp = Response.empty := rfl
@[simp] theorem State.takeRequest_trace : (s.takeRequest w).trace = s.trace := rfl
@[simp] theorem State.takeRequest_calls : (s.takeRequest w).calls = s.calls := rfl
@[simp] theorem State.takeRequest_handle : (s.takeRequest w).handle = s.handle := rfl
@[simp] theorem State.takeRequest_params : (s.takeRequest w).params = s.params := rfl
@[simp] theorem State.takeRequest_port : (s.takeRequest w).port = s.port := rfl
@[simp] theorem State.takeRequest_hostLog : (s.takeRequest w).hostLog = s.hostLog ++ [.req w] := rfl
@[simp] theorem State.takeRequest_answers : (s.takeRequest w).answers = s.answers := rfl
@[simp] theorem State.takeRequest_draws : (s.takeRequest w).draws = s.draws := rfl
@[simp] theorem State.takeRequest_devMode : (s.takeRequest w).devMode = s.devMode := rfl
@[simp] theorem State.takeRequest_dev : (s.takeRequest w).dev = s.dev := rfl
@[simp] theorem State.takeRequest_devCmd : (s.takeRequest w).devCmd = s.devCmd := rfl

end takeRequestFields

section scrambleFields
variable (s : State) (a : RegAddr)

@[simp] theorem State.scramble_phase : (s.scramble a).phase = s.phase := rfl
@[simp] theorem State.scramble_sel : (s.scramble a).sel = s.sel := rfl
@[simp] theorem State.scramble_req : (s.scramble a).req = s.req := rfl
@[simp] theorem State.scramble_rx : (s.scramble a).rx = s.rx := rfl
@[simp] theorem State.scramble_resp : (s.scramble a).resp = s.resp := rfl
@[simp] theorem State.scramble_trace : (s.scramble a).trace = s.trace := rfl
@[simp] theorem State.scramble_calls : (s.scramble a).calls = s.calls := rfl
@[simp] theorem State.scramble_handle : (s.scramble a).handle = s.handle := rfl
@[simp] theorem State.scramble_params : (s.scramble a).params = s.params := rfl
@[simp] theorem State.scramble_port : (s.scramble a).port = s.port := rfl
@[simp] theorem State.scramble_hostLog : (s.scramble a).hostLog = s.hostLog := rfl
@[simp] theorem State.scramble_answers : (s.scramble a).answers = s.answers := rfl
@[simp] theorem State.scramble_draws : (s.scramble a).draws = s.draws + 1 := rfl
@[simp] theorem State.scramble_devMode : (s.scramble a).devMode = s.devMode := rfl
@[simp] theorem State.scramble_dev : (s.scramble a).dev = cellsWrite s.dev a.toNat (Config.devContent s.draws) := rfl
@[simp] theorem State.scramble_devCmd : (s.scramble a).devCmd = s.devCmd := rfl

end scrambleFields

section presentNextFields
variable (s : State) (w : ReqWord)

@[simp] theorem State.presentNext_phase : (s.presentNext w).phase = .idle := rfl
@[simp] theorem State.presentNext_sel : (s.presentNext w).sel = s.sel := rfl
@[simp] theorem State.presentNext_req : (s.presentNext w).req = s.req := rfl
@[simp] theorem State.presentNext_rx : (s.presentNext w).rx = s.rx := rfl
@[simp] theorem State.presentNext_resp : (s.presentNext w).resp = s.resp := rfl
@[simp] theorem State.presentNext_trace : (s.presentNext w).trace = s.trace := rfl
@[simp] theorem State.presentNext_calls : (s.presentNext w).calls = s.calls := rfl
@[simp] theorem State.presentNext_handle : (s.presentNext w).handle = s.handle := rfl
@[simp] theorem State.presentNext_params : (s.presentNext w).params = s.params := rfl
@[simp] theorem State.presentNext_port : (s.presentNext w).port = .request w :: s.port := rfl
@[simp] theorem State.presentNext_hostLog : (s.presentNext w).hostLog = s.hostLog := rfl
@[simp] theorem State.presentNext_answers : (s.presentNext w).answers = s.answers := rfl
@[simp] theorem State.presentNext_draws : (s.presentNext w).draws = s.draws := rfl
@[simp] theorem State.presentNext_devMode : (s.presentNext w).devMode = s.devMode := rfl
@[simp] theorem State.presentNext_dev : (s.presentNext w).dev = s.dev := rfl
@[simp] theorem State.presentNext_devCmd : (s.presentNext w).devCmd = s.devCmd := rfl

end presentNextFields

/-! The updates that branch leave every other field alone. -/

section dropAnswerFields
variable (s : State)

@[simp] theorem State.dropAnswer_phase : s.dropAnswer.phase = s.phase := by
  unfold State.dropAnswer; split <;> [rfl; (split <;> rfl)]
@[simp] theorem State.dropAnswer_sel : s.dropAnswer.sel = s.sel := by
  unfold State.dropAnswer; split <;> [rfl; (split <;> rfl)]
@[simp] theorem State.dropAnswer_req : s.dropAnswer.req = s.req := by
  unfold State.dropAnswer; split <;> [rfl; (split <;> rfl)]
@[simp] theorem State.dropAnswer_rx : s.dropAnswer.rx = s.rx := by
  unfold State.dropAnswer; split <;> [rfl; (split <;> rfl)]
@[simp] theorem State.dropAnswer_resp : s.dropAnswer.resp = s.resp := by
  unfold State.dropAnswer; split <;> [rfl; (split <;> rfl)]
@[simp] theorem State.dropAnswer_trace : s.dropAnswer.trace = s.trace := by
  unfold State.dropAnswer; split <;> [rfl; (split <;> rfl)]
@[simp] theorem State.dropAnswer_calls : s.dropAnswer.calls = s.calls := by
  unfold State.dropAnswer; split <;> [rfl; (split <;> rfl)]
@[simp] theorem State.dropAnswer_handle : s.dropAnswer.handle = s.handle := by
  unfold State.dropAnswer; split <;> [rfl; (split <;> rfl)]
@[simp] theorem State.dropAnswer_params : s.dropAnswer.params = s.params := by
  unfold State.dropAnswer; split <;> [rfl; (split <;> rfl)]
@[simp] theorem State.dropAnswer_port : s.dropAnswer.port = s.port := by
  unfold State.dropAnswer; split <;> [rfl; (split <;> rfl)]
@[simp] theorem State.dropAnswer_hostLog : s.dropAnswer.hostLog = s.hostLog := by
  unfold State.dropAnswer; split <;> [rfl; (split <;> rfl)]
@[simp] theorem State.dropAnswer_devMode : s.dropAnswer.devMode = s.devMode := by
  unfold State.dropAnswer; split <;> [rfl; (split <;> rfl)]
@[simp] theorem State.dropAnswer_dev : s.dropAnswer.dev = s.dev := by
  unfold State.dropAnswer; split <;> [rfl; (split <;> rfl)]
@[simp] theorem State.dropAnswer_devCmd : s.dropAnswer.devCmd = s.devCmd := by
  unfold State.dropAnswer; split <;> [rfl; (split <;> rfl)]

end dropAnswerFields

section putRxFields
variable (s : State) (n : RxLen) (bs : Nine Byte)

@[simp] theorem State.putRx_phase : (s.putRx n bs).phase = s.phase := by
  cases n <;> rfl
@[simp] theorem State.putRx_sel : (s.putRx n bs).sel = s.sel := by
  cases n <;> rfl
@[simp] theorem State.putRx_req : (s.putRx n bs).req = s.req := by
  cases n <;> rfl
@[simp] theorem State.putRx_resp : (s.putRx n bs).resp = s.resp := by
  cases n <;> rfl
@[simp] theorem State.putRx_trace : (s.putRx n bs).trace = s.trace := by
  cases n <;> rfl
@[simp] theorem State.putRx_calls : (s.putRx n bs).calls = s.calls := by
  cases n <;> rfl
@[simp] theorem State.putRx_handle : (s.putRx n bs).handle = s.handle := by
  cases n <;> rfl
@[simp] theorem State.putRx_params : (s.putRx n bs).params = s.params := by
  cases n <;> rfl
@[simp] theorem State.putRx_port : (s.putRx n bs).port = s.port := by
  cases n <;> rfl
@[simp] theorem State.putRx_hostLog : (s.putRx n bs).hostLog = s.hostLog := by
  cases n <;> rfl
@[simp] theorem State.putRx_answers : (s.putRx n bs).answers = s.answers := by
  cases n <;> rfl
@[simp] theorem State.putRx_draws : (s.putRx n bs).draws = s.draws := by
  cases n <;> rfl
@[simp] theorem State.putRx_devMode : (s.putRx n bs).devMode = s.devMode := by
  cases n <;> rfl
@[simp] theorem State.putRx_dev : (s.putRx n bs).dev = s.dev := by
  cases n <;> rfl
@[simp] theorem State.putRx_devCmd : (s.putRx n bs).devCmd = s.devCmd := by
  cases n <;> rfl

end putRxFields

section deviceTxFields
variable (s : State) (b : Byte) (st : Status)

@[simp] theorem State.deviceTx_phase : (s.deviceTx b st).phase = s.phase := by
  unfold State.deviceTx; split <;> [rfl; (split <;> [rfl; (split <;> rfl); (split <;> rfl); (split <;> rfl)])]
@[simp] theorem State.deviceTx_sel : (s.deviceTx b st).sel = s.sel := by
  unfold State.deviceTx; split <;> [rfl; (split <;> [rfl; (split <;> rfl); (split <;> rfl); (split <;> rfl)])]
@[simp] theorem State.deviceTx_req : (s.deviceTx b st).req = s.req := by
  unfold State.deviceTx; split <;> [rfl; (split <;> [rfl; (split <;> rfl); (split <;> rfl); (split <;> rfl)])]
@[simp] theorem State.deviceTx_rx : (s.deviceTx b st).rx = s.rx := by
  unfold State.deviceTx; split <;> [rfl; (split <;> [rfl; (split <;> rfl); (split <;> rfl); (split <;> rfl)])]
@[simp] theorem State.deviceTx_resp : (s.deviceTx b st).resp = s.resp := by
  unfold State.deviceTx; split <;> [rfl; (split <;> [rfl; (split <;> rfl); (split <;> rfl); (split <;> rfl)])]
@[simp] theorem State.deviceTx_trace : (s.deviceTx b st).trace = s.trace := by
  unfold State.deviceTx; split <;> [rfl; (split <;> [rfl; (split <;> rfl); (split <;> rfl); (split <;> rfl)])]
@[simp] theorem State.deviceTx_calls : (s.deviceTx b st).calls = s.calls := by
  unfold State.deviceTx; split <;> [rfl; (split <;> [rfl; (split <;> rfl); (split <;> rfl); (split <;> rfl)])]
@[simp] theorem State.deviceTx_handle : (s.deviceTx b st).handle = s.handle := by
  unfold State.deviceTx; split <;> [rfl; (split <;> [rfl; (split <;> rfl); (split <;> rfl); (split <;> rfl)])]
@[simp] theorem State.deviceTx_params : (s.deviceTx b st).params = s.params := by
  unfold State.deviceTx; split <;> [rfl; (split <;> [rfl; (split <;> rfl); (split <;> rfl); (split <;> rfl)])]
@[simp] theorem State.deviceTx_port : (s.deviceTx b st).port = s.port := by
  unfold State.deviceTx; split <;> [rfl; (split <;> [rfl; (split <;> rfl); (split <;> rfl); (split <;> rfl)])]
@[simp] theorem State.deviceTx_hostLog : (s.deviceTx b st).hostLog = s.hostLog := by
  unfold State.deviceTx; split <;> [rfl; (split <;> [rfl; (split <;> rfl); (split <;> rfl); (split <;> rfl)])]
@[simp] theorem State.deviceTx_answers : (s.deviceTx b st).answers = s.answers := by
  unfold State.deviceTx; split <;> [rfl; (split <;> [rfl; (split <;> rfl); (split <;> rfl); (split <;> rfl)])]
@[simp] theorem State.deviceTx_devMode : (s.deviceTx b st).devMode = s.devMode := by
  unfold State.deviceTx; split <;> [rfl; (split <;> [rfl; (split <;> rfl); (split <;> rfl); (split <;> rfl)])]

end deviceTxFields

end Sys2Proof.Machine
end

