-- ==== Sys2Proof/Laws/Ops.lean ====
section
/-! SUPPORT. One lemma per shared operation that says what it can do: the transport's answers, the ideal device, the
transfers and the transaction. -/

namespace Sys2Proof.Machine

open Sys2Proof.Safety

/-! The transport's answers. -/

/-- The answers to come depend on three fields of the state. -/
theorem State.answerAt_congr {s t : State} (ha : s.answers = t.answers) (hd : s.draws = t.draws)
    (hm : s.devMode = t.devMode) (k : Nat) : s.answerAt k = t.answerAt k := by
  simp only [State.answerAt, ha, hd, hm]

@[simp] theorem State.dropAnswer_answers (s : State) : s.dropAnswer.answers = s.answers.drop 1 := by
  unfold State.dropAnswer
  split
  · rename_i h; simp [h]
  · rename_i h; split <;> simp [h]

/-- With an oracle on the bus, a free value is drawn when no answer is listed. -/
theorem State.dropAnswer_draws_oracle (s : State) (h : s.devMode = .oracle) :
    s.dropAnswer.draws = s.draws + (1 - s.answers.length) := by
  unfold State.dropAnswer
  split
  · rename_i ha; simp [ha]
  · rename_i ha; rw [h]; simp [ha]

/-- With the ideal device on the bus, using an answer draws nothing. -/
theorem State.dropAnswer_draws_ideal (s : State) (h : s.devMode = .ideal) : s.dropAnswer.draws = s.draws := by
  unfold State.dropAnswer
  split
  · rfl
  · rw [h]

/-- Using an answer brings the next one to the front. -/
@[simp] theorem State.dropAnswer_answerAt (s : State) (k : Nat) : s.dropAnswer.answerAt k = s.answerAt (k + 1) := by
  cases ha : s.answers with
  | nil =>
    cases hm : s.devMode
    · simp [State.dropAnswer, State.answerAt, ha, hm, show s.draws + 1 + k = s.draws + (k + 1) by omega]
    · simp [State.dropAnswer, State.answerAt, ha, hm]
  | cons a rest => simp [State.dropAnswer, State.answerAt, ha]

@[simp] theorem State.deviceTx_answerAt (s : State) (b : Byte) (st : Status) (k : Nat) :
    (s.deviceTx b st).answerAt k = s.answerAt k := by
  unfold State.deviceTx
  split
  · rfl
  · rename_i h
    have scr : ∀ a, (s.scramble a).answerAt k = s.answerAt k := by
      intro a; simp [State.answerAt, h]
    split
    · rfl
    · split
      · exact scr _
      · rfl
    · split <;> rfl
    · split
      · exact scr _
      · rfl

@[simp] theorem State.clearRx_answerAt (s : State) (k : Nat) : s.clearRx.answerAt k = s.answerAt k := rfl

@[simp] theorem State.selAssert_answerAt (s : State) (k : Nat) : s.selAssert.answerAt k = s.answerAt k := rfl

@[simp] theorem State.selDeassert_answerAt (s : State) (k : Nat) : s.selDeassert.answerAt k = s.answerAt k := rfl

@[simp] theorem State.logTx_answerAt (s : State) (b : Byte) (st : Status) (k : Nat) :
    (s.logTx b st).answerAt k = s.answerAt k := rfl

@[simp] theorem State.logRx_answerAt (s : State) (n : RxLen) (st : Status) (bs : Option (List Byte)) (k : Nat) :
    (s.logRx n st bs).answerAt k = s.answerAt k := rfl

@[simp] theorem State.putRx_answerAt (s : State) (n : RxLen) (bs : Nine Byte) (k : Nat) :
    (s.putRx n bs).answerAt k = s.answerAt k := by
  cases n <;> rfl

@[simp] theorem State.complete_answerAt (s : State) (r : Response) (k : Nat) :
    (s.complete r).answerAt k = s.answerAt k := rfl

@[simp] theorem State.takeRequest_answerAt (s : State) (w : ReqWord) (k : Nat) :
    (s.takeRequest w).answerAt k = s.answerAt k := rfl

/-! The ideal device. -/

/-- An oracle on the bus keeps no state. -/
@[simp] theorem State.deviceTx_oracle (s : State) (b : Byte) (st : Status) (h : s.devMode = .oracle) :
    s.deviceTx b st = s := by
  unfold State.deviceTx; rw [h]

/-- The ideal device takes the first byte of a transaction as its command. -/
theorem State.deviceTx_command (s : State) (b : Byte) (h : s.devMode = .ideal) (hc : s.devCmd = none) :
    s.deviceTx b .ok = { s with devCmd := some b } := by
  unfold State.deviceTx; rw [h, hc]

/-- The ideal device writes the byte after a write command. -/
theorem State.deviceTx_value (s : State) (b c : Byte) (h : s.devMode = .ideal) (hc : s.devCmd = some c)
    (hw : commandDir c = .write) :
    s.deviceTx b .ok = { s with dev := cellsWrite s.dev (commandAddr c).toNat b } := by
  unfold State.deviceTx; simp only [h, hc, hw]

/-- A write command that failed leaves the addressed register a free value. -/
theorem State.deviceTx_command_fail (s : State) (b : Byte) (h : s.devMode = .ideal) (hc : s.devCmd = none)
    (hw : commandDir b = .write) : s.deviceTx b .fail = s.scramble (commandAddr b) := by
  unfold State.deviceTx; simp only [h, hc, hw]

/-- A read command that failed changes nothing in the device. -/
theorem State.deviceTx_read_fail (s : State) (b : Byte) (hc : s.devCmd = none) (hw : commandDir b = .read) :
    s.deviceTx b .fail = s := by
  unfold State.deviceTx; cases h : s.devMode <;> simp only [hc, hw]

/-- A value that failed leaves the addressed register a free value. -/
theorem State.deviceTx_value_fail (s : State) (b c : Byte) (h : s.devMode = .ideal) (hc : s.devCmd = some c)
    (hw : commandDir c = .write) : s.deviceTx b .fail = s.scramble (commandAddr c) := by
  unfold State.deviceTx; simp only [h, hc, hw]

/-- What a transmitted byte does to the device's register space: nothing, or one register of the commanded address. -/
theorem State.deviceTx_dev_cases (s : State) (b : Byte) (st : Status) :
    (s.deviceTx b st).dev = s.dev ∨
      s.devMode = .ideal ∧ commandDir (s.devCmd.getD b) = .write ∧
        ∃ v, (s.deviceTx b st).dev = cellsWrite s.dev (commandAddr (s.devCmd.getD b)).toNat v := by
  cases hm : s.devMode
  · left; rw [State.deviceTx_oracle _ _ _ hm]
  · cases hc : s.devCmd with
    | none =>
      cases st
      · left; rw [State.deviceTx_command _ _ hm hc]
      · cases hd : commandDir b
        · left; rw [State.deviceTx_read_fail _ _ hc hd]
        · right; rw [State.deviceTx_command_fail _ _ hm hc hd]
          exact ⟨rfl, hd, _, rfl⟩
    | some c =>
      cases hd : commandDir c
      · left; unfold State.deviceTx; cases st <;> simp only [hm, hc, hd]
      · right
        refine ⟨rfl, hd, ?_⟩
        cases st
        · rw [State.deviceTx_value _ _ c hm hc hd]; exact ⟨_, rfl⟩
        · rw [State.deviceTx_value_fail _ _ c hm hc hd]; exact ⟨_, rfl⟩

/-! The command byte. -/

@[simp] theorem commandAddr_commandByte (d : Dir) (a : RegAddr) : commandAddr (commandByte d a) = a := by
  revert a; cases d <;> decide

@[simp] theorem commandDir_commandByte (d : Dir) (a : RegAddr) : commandDir (commandByte d a) = d := by
  revert a; cases d <;> decide

/-! The transaction (rule R111): what it does for each pattern of answers. -/

/-- A transaction whose command transmit failed has no payload transfer (rule R114). -/
theorem State.runTxn_command_fail (s : State) (t : Txn) (h0 : (s.answerAt 0).status = .fail) :
    s.runTxn t = (.fail,
      ((s.clearRx.selAssert.dropAnswer.deviceTx (commandByte t.kind.dir t.addr) .fail).logTx
        (commandByte t.kind.dir t.addr) .fail).selDeassert) := by
  simp [State.runTxn, State.transfers, State.command, State.transmit, h0]

/-- The state of a transaction in which the command transmit returned `OK` and the payload is next. -/
def State.commanded (s : State) (t : Txn) : State :=
  (s.clearRx.selAssert.dropAnswer.deviceTx (commandByte t.kind.dir t.addr) .ok).logTx
    (commandByte t.kind.dir t.addr) .ok

/-- A transaction whose command transmit returned `OK` performs its payload and releases select. -/
theorem State.runTxn_command_ok (s : State) (t : Txn) (h0 : (s.answerAt 0).status = .ok) :
    s.runTxn t = (((s.commanded t).payload t).1, ((s.commanded t).payload t).2.selDeassert) := by
  simp [State.runTxn, State.transfers, State.command, State.transmit, State.commanded, h0]

@[simp] theorem State.commanded_answerAt (s : State) (t : Txn) (k : Nat) :
    (s.commanded t).answerAt k = s.answerAt (k + 1) := by
  simp [State.commanded]

/-- A receive that failed puts nothing into the buffer (rule R26). -/
theorem State.receive_fail (s : State) (n : RxLen) (h : (s.answerAt 0).status = .fail) :
    s.receive n = (.fail, s.dropAnswer.logRx n .fail none) := by
  simp [State.receive, h]

/-- A receive that returned `OK` puts the delivered bytes into the buffer (rule R26). -/
theorem State.receive_ok (s : State) (n : RxLen) (h : (s.answerAt 0).status = .ok) :
    s.receive n = (.ok, (s.dropAnswer.putRx n (s.deviceBytes (s.answerAt 0).bytes)).logRx n .ok
      (some (n.take (s.deviceBytes (s.answerAt 0).bytes)))) := by
  simp [State.receive, h]

/-- What the device delivers once the command for `t` was taken (rules R35, R62). -/
theorem State.commanded_deviceBytes (s : State) (t : Txn) (k : Nat) :
    (s.commanded t).deviceBytes (s.answerAt k).bytes = deliveredAt s k t.addr := by
  cases hm : s.devMode
  · simp [State.deviceBytes, State.commanded, deliveredAt, hm]
  · have hd : (s.clearRx.selAssert.dropAnswer).deviceTx (commandByte t.kind.dir t.addr) .ok =
        { s.clearRx.selAssert.dropAnswer with devCmd := some (commandByte t.kind.dir t.addr) } :=
      State.deviceTx_command _ _ (by simp [hm]) (by simp)
    simp [State.deviceBytes, State.commanded, deliveredAt, hm, hd]

/-- A command transmit that returned `OK` writes nothing. -/
theorem State.commanded_dev (s : State) (t : Txn) : (s.commanded t).dev = s.dev := by
  cases hm : s.devMode
  · simp [State.commanded, hm]
  · simp only [State.commanded, State.logTx_dev]
    rw [State.deviceTx_command _ _ (by simp [hm]) (by simp)]
    simp

/-- The ideal device remembers the command of the running transaction. -/
theorem State.commanded_devCmd (s : State) (t : Txn) (h : s.devMode = .ideal) :
    (s.commanded t).devCmd = some (commandByte t.kind.dir t.addr) := by
  simp only [State.commanded, State.logTx_devCmd]
  rw [State.deviceTx_command _ _ (by simp [h]) (by simp)]

/-- What a receive does to the device: nothing. -/
theorem State.receive_dev (s : State) (n : RxLen) : (s.receive n).2.dev = s.dev := by
  unfold State.receive; split <;> simp

/-- What a transaction does to the device's register space: nothing, or, for a write to an ideal device, one write at
the transaction's address. -/
theorem State.runTxn_dev_cases (s : State) (t : Txn) :
    (s.runTxn t).2.dev = s.dev ∨
      s.devMode = .ideal ∧ t.kind = .w1 ∧ ∃ v, (s.runTxn t).2.dev = cellsWrite s.dev t.addr.toNat v := by
  cases h0 : (s.answerAt 0).status
  · rw [State.runTxn_command_ok s t h0]
    simp only [State.selDeassert_dev]
    cases hk : t.kind
    · have hp : (s.commanded t).payload t = (s.commanded t).transmit t.value := by simp only [State.payload, hk]
      rw [hp]
      simp only [State.transmit, State.logTx_dev]
      rcases State.deviceTx_dev_cases (s.commanded t).dropAnswer t.value ((s.commanded t).answerAt 0).status with
        h | ⟨hm, -, v, h⟩
      · left; rw [h]; simp [State.commanded_dev]
      · right
        have hm' : s.devMode = .ideal := by simpa [State.commanded] using hm
        refine ⟨hm', by simp, v, ?_⟩
        rw [h]
        simp [State.commanded_dev, State.commanded_devCmd _ _ hm']
    · left
      have hp : (s.commanded t).payload t = (s.commanded t).receive .one := by simp only [State.payload, hk]
      rw [hp, State.receive_dev, State.commanded_dev]
    · left
      have hp : (s.commanded t).payload t = (s.commanded t).receive .nine := by simp only [State.payload, hk]
      rw [hp, State.receive_dev, State.commanded_dev]
  · rw [State.runTxn_command_fail s t h0]
    simp only [State.selDeassert_dev, State.logTx_dev]
    rcases State.deviceTx_dev_cases s.clearRx.selAssert.dropAnswer (commandByte t.kind.dir t.addr) .fail with
      h | ⟨hm, hd, v, h⟩
    · left; rw [h]; simp
    · right
      have hm' : s.devMode = .ideal := by simpa using hm
      refine ⟨hm', ?_, v, ?_⟩
      · simp at hd
        cases hk : t.kind <;> simp [hk, Kind.dir] at hd ⊢
      · rw [h]; simp

end Sys2Proof.Machine
end

