-- ==== Sys2Proof/Laws/Txn.lean ====
section
/-! SUPPORT. What a whole transaction does (rules R111 to R117), for each frame and each pattern of answers, and how an
operation is put together from transactions. -/

namespace Sys2Proof.Machine

open Sys2Proof.Safety

/-- What one transaction that used `n` answers and caused the events `ev` did to the state. -/
structure TxnRan (s u : State) (n : Nat) (ev : List Event) (rx : Nine (Option Byte)) : Prop where
  trace : u.trace = s.trace ++ ev
  calls : u.calls = s.calls ++ ev.map (callOf s.handle)
  resp : u.resp = s.resp
  hostLog : u.hostLog = s.hostLog
  phase : u.phase = s.phase
  sel : u.sel = .deasserted
  rx : u.rx = rx
  answers : u.answers = s.answers.drop n
  draws : s.devMode = .oracle → u.draws = s.draws + (n - s.answers.length)
  answerAt : ∀ k, u.answerAt k = s.answerAt (k + n)
  devCmd : u.devCmd = none
  req : u.req = s.req
  handle : u.handle = s.handle
  params : u.params = s.params
  port : u.port = s.port
  devMode : u.devMode = s.devMode

/-- A transaction followed by completion is a whole operation (rule R203). -/
theorem TxnRan.complete {s u : State} {n : Nat} {ev : List Event} {rx : Nine (Option Byte)} (h : TxnRan s u n ev rx)
    (r : Response) : RanAs s (u.complete r) n ev r rx where
  trace := by simp [h.trace]
  calls := by simp [h.calls]
  resp := rfl
  hostLog := by simp [h.hostLog]
  phase := rfl
  sel := by simp [h.sel]
  rx := by simp [h.rx]
  answers := by simp [h.answers]
  draws := by simpa using h.draws
  devCmd := by simp [h.devCmd]
  req := by simp [h.req]
  handle := by simp [h.handle]
  params := by simp [h.params]
  port := by simp [h.port]
  devMode := by simp [h.devMode]

/-- Two transactions one after the other (rule R140). -/
theorem TxnRan.trans {s u v : State} {n m : Nat} {ev ev' : List Event} {rx rx' : Nine (Option Byte)}
    (h : TxnRan s u n ev rx) (h' : TxnRan u v m ev' rx') : TxnRan s v (n + m) (ev ++ ev') rx' where
  trace := by rw [h'.trace, h.trace, List.append_assoc]
  calls := by rw [h'.calls, h.calls, h.handle, List.map_append, List.append_assoc]
  resp := h'.resp.trans h.resp
  hostLog := h'.hostLog.trans h.hostLog
  phase := h'.phase.trans h.phase
  sel := h'.sel
  rx := h'.rx
  answers := by rw [h'.answers, h.answers, List.drop_drop]
  draws := fun o => by
    rw [h'.draws (h.devMode.trans o), h.draws o, h.answers, List.length_drop]
    omega
  answerAt := fun k => by rw [h'.answerAt, h.answerAt]; congr 1; omega
  devCmd := h'.devCmd
  req := h'.req.trans h.req
  handle := h'.handle.trans h.handle
  params := h'.params.trans h.params
  port := h'.port.trans h.port
  devMode := h'.devMode.trans h.devMode

/-- A transaction whose command transmit failed (rule R114). -/
theorem State.runTxn_ran_command_fail (s : State) (t : Txn) (h0 : statusAt s 0 = .fail) :
    ∃ u, s.runTxn t = (.fail, u) ∧
      TxnRan s u 1 [.selA, .tx [commandByte t.kind.dir t.addr] .fail, .selD] (Nine.const none) := by
  refine ⟨_, s.runTxn_command_fail t h0, ?_⟩
  constructor <;> simp [callOf]
  intro o
  rw [State.deviceTx_oracle _ _ _ (by simp [o]), State.dropAnswer_draws_oracle _ (by simp [o])]
  simp

/-- A write transaction whose command transmit returned `OK`: the value is transmitted (rule R112). -/
theorem State.runTxn_ran_write (s : State) (a : RegAddr) (v : Byte) (h0 : statusAt s 0 = .ok) :
    ∃ u, s.runTxn (Txn.write a v) = (statusAt s 1, u) ∧
      TxnRan s u 2 [.selA, .tx [commandByte .write a] .ok, .tx [v] (statusAt s 1), .selD] (Nine.const none) := by
  have e := s.runTxn_command_ok (Txn.write a v) h0
  have h1 : ((s.commanded (Txn.write a v)).payload (Txn.write a v)).1 = statusAt s 1 :=
    congrArg Answer.status (s.commanded_answerAt _ 0)
  refine ⟨_, e.trans (by rw [h1]), ?_⟩
  constructor <;>
    simp [State.payload, State.transmit, Txn.write, Kind.dir, State.commanded, statusAt, callOf, Nat.add_assoc]
  intro o
  rw [State.deviceTx_oracle _ _ _ (by simp [o]), State.dropAnswer_draws_oracle _ (by simp [o]), State.logTx_draws,
    State.deviceTx_oracle _ _ _ (by simp [o]), State.dropAnswer_draws_oracle _ (by simp [o])]
  simp
  omega

/-- A read transaction whose receive failed (rule R113). -/
theorem State.runTxn_ran_read_fail (s : State) (t : Txn) (n : RxLen) (h0 : statusAt s 0 = .ok)
    (h1 : statusAt s 1 = .fail) (hk : t.kind = .r1 ∧ n = .one ∨ t.kind = .r9 ∧ n = .nine) :
    ∃ u, s.runTxn t = (.fail, u) ∧
      TxnRan s u 2 [.selA, .tx [commandByte .read t.addr] .ok, .rx n.toNat .fail none, .selD] (Nine.const none) := by
  have hd : t.kind.dir = .read := by rcases hk with ⟨h, _⟩ | ⟨h, _⟩ <;> rw [h] <;> rfl
  have hp : (s.commanded t).payload t = (s.commanded t).receive n := by
    rcases hk with ⟨h, rfl⟩ | ⟨h, rfl⟩ <;> simp only [State.payload, h]
  have hr := (s.commanded t).receive_fail n (by simpa [statusAt] using h1)
  refine ⟨_, (s.runTxn_command_ok t h0).trans (by rw [hp, hr]), ?_⟩
  constructor <;> simp [State.commanded, hd, callOf, Nat.add_assoc]
  intro o
  rw [State.dropAnswer_draws_oracle _ (by simp [o]), State.logTx_draws,
    State.deviceTx_oracle _ _ _ (by simp [o]), State.dropAnswer_draws_oracle _ (by simp [o])]
  simp
  omega

/-- What the receive buffer holds after an `OK` receive into a cleared buffer (rule R26). -/
def rxAfter (n : RxLen) (bs : Nine Byte) : Nine (Option Byte) :=
  match n with
  | .one => rxOne bs.b0
  | .nine => bs.map some

/-- A read transaction in which both transfers returned `OK` (rule R113). -/
theorem State.runTxn_ran_read_ok (s : State) (t : Txn) (n : RxLen) (h0 : statusAt s 0 = .ok)
    (h1 : statusAt s 1 = .ok) (hk : t.kind = .r1 ∧ n = .one ∨ t.kind = .r9 ∧ n = .nine) :
    ∃ u, s.runTxn t = (.ok, u) ∧
      TxnRan s u 2 [.selA, .tx [commandByte .read t.addr] .ok,
        .rx n.toNat .ok (some (n.take (deliveredAt s 1 t.addr))), .selD] (rxAfter n (deliveredAt s 1 t.addr)) := by
  have hd : t.kind.dir = .read := by rcases hk with ⟨h, _⟩ | ⟨h, _⟩ <;> rw [h] <;> rfl
  have hp : (s.commanded t).payload t = (s.commanded t).receive n := by
    rcases hk with ⟨h, rfl⟩ | ⟨h, rfl⟩ <;> simp only [State.payload, h]
  have hr := (s.commanded t).receive_ok n (by simpa [statusAt] using h1)
  have hb := s.commanded_deviceBytes t 1
  rw [State.commanded_answerAt] at hr
  rw [Nat.zero_add, hb] at hr
  refine ⟨_, (s.runTxn_command_ok t h0).trans (by rw [hp, hr]), ?_⟩
  have hx : ((s.commanded t).dropAnswer.putRx n (deliveredAt s 1 t.addr)).rx = rxAfter n (deliveredAt s 1 t.addr) := by
    rcases n <;> simp [State.putRx, State.commanded, rxAfter, rxOne]
  constructor <;> simp [hx, callOf, Nat.add_assoc] <;> simp [State.commanded, hd]
  · rw [← List.drop_one, ← List.drop_one, List.drop_drop]
  intro o
  rw [State.dropAnswer_draws_oracle _ (by simp [o]), State.logTx_draws,
    State.deviceTx_oracle _ _ _ (by simp [o]), State.dropAnswer_draws_oracle _ (by simp [o])]
  simp
  omega

/-! The read and write primitives, from the transactions (rules R112, R113). -/

theorem State.memRead_of_fail {s u : State} {a : RegAddr} (h : s.runTxn (Txn.read a) = (.fail, u)) :
    s.memRead a = (none, u) := by
  simp only [State.memRead, h]

theorem State.memRead_of_ok {s u : State} {a : RegAddr} {b : Byte} (h : s.runTxn (Txn.read a) = (.ok, u))
    (hb : u.rx = rxOne b) : s.memRead a = (some b, u) := by
  simp only [State.memRead, h, hb, rxOne]

theorem State.memReadBurst_of_fail {s u : State} (h : s.runTxn (Txn.burst s.params) = (.fail, u)) :
    s.memReadBurst = (none, u) := by
  simp only [State.memReadBurst, h]

theorem State.memReadBurst_of_ok {s u : State} {bs : Nine Byte} (h : s.runTxn (Txn.burst s.params) = (.ok, u))
    (hb : u.rx = bs.map some) : s.memReadBurst = (some bs, u) := by
  simp only [State.memReadBurst, h, hb, Nine.map, fullBuffer]

/-! `SetVerify` by its three ends (rule R140). -/

theorem State.setVerify_of_write_fail {s u : State} {a : RegAddr} {v : Byte} (h : s.memWrite a v = (.fail, u)) :
    s.setVerify a v = u.complete (Response.ofResult .busError) := by
  simp only [State.setVerify, h]

theorem State.setVerify_of_read_fail {s u w : State} {a : RegAddr} {v : Byte} (h : s.memWrite a v = (.ok, u))
    (hr : u.memRead a = (none, w)) : s.setVerify a v = w.complete (Response.ofResult .busError) := by
  simp only [State.setVerify, h, hr]

theorem State.setVerify_of_read_ok {s u w : State} {a : RegAddr} {v b : Byte} (h : s.memWrite a v = (.ok, u))
    (hr : u.memRead a = (some b, w)) : s.setVerify a v = w.complete (Response.ofResult (readbackResult v b)) := by
  simp only [State.setVerify, h, hr]

end Sys2Proof.Machine
end

