-- ==== Sys2Proof/Laws/Device.lean ====
section
/-! SUPPORT. What the shared operations and the meanings do to the ideal device's bytes (rules R51, R62, R64). -/

namespace Sys2Proof.Machine

theorem State.memRead_dev (s : State) (a : RegAddr) : (s.memRead a).2.dev = s.dev := by
  have hr := s.runTxn_dev_cases (Txn.read a)
  simp [Txn.read] at hr
  rw [← hr]
  unfold State.memRead
  rcases e : s.runTxn (Txn.read a) with ⟨st, w⟩
  simp only [Txn.read] at e
  cases st <;> simp [e]

theorem State.memReadBurst_dev (s : State) : s.memReadBurst.2.dev = s.dev := by
  have hr := s.runTxn_dev_cases (Txn.burst s.params)
  simp [Txn.burst] at hr
  rw [← hr]
  unfold State.memReadBurst
  rcases e : s.runTxn (Txn.burst s.params) with ⟨st, w⟩
  simp only [Txn.burst] at e
  cases st <;> simp [e]

/-- A write transaction writes at most the byte at its address, and none with an oracle on the bus. -/
theorem State.memWrite_dev (s : State) (a : RegAddr) (v : Byte) : (s.memWrite a v).2.dev = s.dev ∨
    s.devMode = .ideal ∧ ∃ x, (s.memWrite a v).2.dev = cellsWrite s.dev a.toNat x := by
  rcases s.runTxn_dev_cases (Txn.write a v) with h | ⟨hm, -, x, h⟩
  · exact .inl h
  · exact .inr ⟨hm, x, h⟩

/-- `SetVerify` leaves the device as its write transaction left it. -/
theorem State.setVerify_dev (s : State) (a : RegAddr) (v : Byte) : (s.setVerify a v).dev = (s.memWrite a v).2.dev := by
  unfold State.setVerify
  rcases s.memWrite a v with ⟨st, u⟩
  cases st
  · have hr := u.memRead_dev a
    rcases e : u.memRead a with ⟨b, w⟩
    rw [e] at hr
    cases b <;> simpa [e] using hr
  · rfl

/-- The address an operation writes, if it writes one (rule R51). -/
def writeTarget (p : Params) : Instr → Option RegAddr
  | .wrreg a _ => some a
  | .rdreg _ => none
  | .setodr _ => some p.odrAddr
  | .setrng _ => some p.rangeAddr
  | .setmeas => some p.pwrAddr
  | .chkid => none
  | .rdxyz => none

/-- An operation leaves the device alone or, with the ideal device, writes the one byte it targets. -/
theorem exec_dev (i : Instr) (s t : State) (h : exec i s = .next t) : t.dev = s.dev ∨
    s.devMode = .ideal ∧ ∃ a x, writeTarget s.params i = some a ∧ t.dev = cellsWrite s.dev a.toNat x := by
  cases i with
  | wrreg a d =>
    have hd : t.dev = (s.memWrite a d).2.dev := by
      cases h
      rcases s.memWrite a d with ⟨st, u⟩
      cases st <;> rfl
    rw [hd]
    exact (s.memWrite_dev a d).imp id fun ⟨hm, x, e⟩ => ⟨hm, a, x, rfl, e⟩
  | rdreg a =>
    left
    cases h
    rw [← s.memRead_dev a]
    rcases s.memRead a with ⟨b, u⟩
    cases b <;> rfl
  | setodr d =>
    cases h
    rw [s.setVerify_dev]
    exact (s.memWrite_dev _ d).imp id fun ⟨hm, x, e⟩ => ⟨hm, _, x, rfl, e⟩
  | setrng d =>
    cases h
    rw [s.setVerify_dev]
    exact (s.memWrite_dev _ d).imp id fun ⟨hm, x, e⟩ => ⟨hm, _, x, rfl, e⟩
  | setmeas =>
    cases h
    rw [s.setVerify_dev]
    exact (s.memWrite_dev _ _).imp id fun ⟨hm, x, e⟩ => ⟨hm, _, x, rfl, e⟩
  | chkid =>
    left
    cases h
    rw [← s.memRead_dev s.params.idAddr]
    rcases s.memRead s.params.idAddr with ⟨b, u⟩
    cases b <;> rfl
  | rdxyz =>
    left
    cases h
    rw [← s.memReadBurst_dev]
    rcases s.memReadBurst with ⟨b, u⟩
    cases b <;> rfl

/-- Every operation keeps the canonical form of the device's bytes. -/
theorem exec_keeps_cellsWf {i : Instr} {s t : State} (h : exec i s = .next t) (wf : cellsWf s.dev = true) :
    cellsWf t.dev = true := by
  rcases exec_dev i s t h with e | ⟨_, a, x, _, e⟩
  · rw [e]; exact wf
  · rw [e]; exact cellsWrite_wf wf _ _

theorem State.deviceTx_keeps_cellsWf (s : State) (b : Byte) (st : Status) (wf : cellsWf s.dev = true) :
    cellsWf (s.deviceTx b st).dev = true := by
  rcases s.deviceTx_dev_cases b st with h | ⟨_, _, v, h⟩ <;> rw [h]
  · exact wf
  · exact cellsWrite_wf wf _ _

end Sys2Proof.Machine
end

