-- ==== Sys2Proof/Laws/PerInstr.lean ====
section
/-! SUPPORT. Statements about each instruction as syntax: its operation number, its well-formedness and the zeros an
assembler writes in the fields it does not use (rules R82, R83, R94). -/

namespace Sys2Proof.Laws.Encoding

theorem opField_pack (op : BitVec 3) (a : RegAddr) (d : Byte) : opField (packRequest op a d) = op := by
  apply BitVec.eq_of_getLsbD_eq
  intro k hk
  simp only [opField, packRequest, BitVec.getLsbD_extractLsb', BitVec.getLsbD_append, hk, decide_true, Bool.true_and]
  rw [if_neg (by omega), if_neg (by omega)]
  congr 1
  omega

theorem addrField_pack (op : BitVec 3) (a : RegAddr) (d : Byte) : addrField (packRequest op a d) = a := by
  apply BitVec.eq_of_getLsbD_eq
  intro k hk
  simp only [addrField, packRequest, BitVec.getLsbD_extractLsb', BitVec.getLsbD_append, hk, decide_true, Bool.true_and]
  rw [if_neg (by omega), if_pos (by omega)]
  congr 1
  omega

theorem dataField_pack (op : BitVec 3) (a : RegAddr) (d : Byte) : dataField (packRequest op a d) = d := by
  apply BitVec.eq_of_getLsbD_eq
  intro k hk
  simp only [dataField, packRequest, BitVec.getLsbD_extractLsb', BitVec.getLsbD_append, hk, decide_true, Bool.true_and]
  rw [if_pos (by omega)]
  congr 1
  omega

/-- Whether the operation reads `ADDR` (rule R83). -/
def usesAddr : Instr → Bool
  | .wrreg _ _ => true
  | .rdreg _ => true
  | .setodr _ => false
  | .setrng _ => false
  | .setmeas => false
  | .chkid => false
  | .rdxyz => false

/-- Whether the operation reads `DATA` (rule R83). -/
def usesData : Instr → Bool
  | .wrreg _ _ => true
  | .rdreg _ => false
  | .setodr _ => true
  | .setrng _ => true
  | .setmeas => false
  | .chkid => false
  | .rdxyz => false

/-- The word of an instruction carries its operation number, names an operation, and has zeros in the fields the
operation ignores. -/
def Statement (i : Instr) : Prop :=
  opField (encode i) = i.opNumber ∧ i.wellFormed = true ∧ (usesAddr i = false → addrField (encode i) = 0#7) ∧
    (usesData i = false → dataField (encode i) = 0#8)

theorem wrreg (addr : RegAddr) (data : Byte) : Statement (.wrreg addr data) :=
  ⟨opField_pack _ _ _, rfl, fun h => Bool.noConfusion h, fun h => Bool.noConfusion h⟩

theorem rdreg (addr : RegAddr) : Statement (.rdreg addr) :=
  ⟨opField_pack _ _ _, rfl, fun h => Bool.noConfusion h, fun _ => dataField_pack _ _ _⟩

theorem setodr (data : Byte) : Statement (.setodr data) :=
  ⟨opField_pack _ _ _, rfl, fun _ => addrField_pack _ _ _, fun h => Bool.noConfusion h⟩

theorem setrng (data : Byte) : Statement (.setrng data) :=
  ⟨opField_pack _ _ _, rfl, fun _ => addrField_pack _ _ _, fun h => Bool.noConfusion h⟩

theorem setmeas : Statement .setmeas :=
  ⟨opField_pack _ _ _, rfl, fun _ => addrField_pack _ _ _, fun _ => dataField_pack _ _ _⟩

theorem chkid : Statement .chkid :=
  ⟨opField_pack _ _ _, rfl, fun _ => addrField_pack _ _ _, fun _ => dataField_pack _ _ _⟩

theorem rdxyz : Statement .rdxyz :=
  ⟨opField_pack _ _ _, rfl, fun _ => addrField_pack _ _ _, fun _ => dataField_pack _ _ _⟩

end Sys2Proof.Laws.Encoding
end

