-- ==== Sys2Proof/Laws/Phase.lean ====
section
/-! SUPPORT. The primitives neither read nor write the sequencer phase (rules R32, R33, R34): the atomic operation and the
rows of rule R116 share them. -/

namespace Sys2Proof.Machine

/-- The state in another phase. -/
def State.inPhase (s : State) (p : Phase) : State := { s with phase := p }

theorem State.inPhase_dropAnswer (s : State) (p : Phase) : (s.inPhase p).dropAnswer = s.dropAnswer.inPhase p := by
  rcases s with ⟨_, _, _, _, _, _, _, _, _, _, _, ans, _, dm, _, _⟩
  cases ans <;> cases dm <;> rfl

theorem State.inPhase_deviceTx (s : State) (p : Phase) (b : Byte) (st : Status) :
    (s.inPhase p).deviceTx b st = (s.deviceTx b st).inPhase p := by
  rcases s with ⟨_, _, _, _, _, _, _, _, _, _, _, _, _, dm, _, dc⟩
  cases dm
  · rfl
  · cases dc with
    | none =>
      cases st
      · rfl
      · simp only [State.inPhase, State.deviceTx]; split <;> rfl
    | some c =>
      cases st <;> simp only [State.inPhase, State.deviceTx] <;> split <;> rfl

theorem State.inPhase_transmit (s : State) (p : Phase) (b : Byte) :
    (s.inPhase p).transmit b = ((s.transmit b).1, (s.transmit b).2.inPhase p) := by
  have h : (s.inPhase p).answerAt 0 = s.answerAt 0 := rfl
  simp only [State.transmit, h, State.inPhase_dropAnswer, State.inPhase_deviceTx]
  rfl

theorem State.inPhase_receive (s : State) (p : Phase) (n : RxLen) :
    (s.inPhase p).receive n = ((s.receive n).1, (s.receive n).2.inPhase p) := by
  have h : (s.inPhase p).answerAt 0 = s.answerAt 0 := rfl
  have hb : ∀ bs, (s.inPhase p).deviceBytes bs = s.deviceBytes bs := fun _ => rfl
  cases hs : (s.answerAt 0).status
  · rw [State.receive_ok s n hs, State.receive_ok (s.inPhase p) n (by rw [h]; exact hs), h, hb,
      State.inPhase_dropAnswer]
    cases n <;> rfl
  · rw [State.receive_fail s n hs, State.receive_fail (s.inPhase p) n (by rw [h]; exact hs),
      State.inPhase_dropAnswer]
    rfl

theorem State.inPhase_payload (s : State) (p : Phase) (t : Txn) :
    (s.inPhase p).payload t = ((s.payload t).1, (s.payload t).2.inPhase p) := by
  unfold State.payload
  cases t.kind
  · exact s.inPhase_transmit p _
  · exact s.inPhase_receive p _
  · exact s.inPhase_receive p _

theorem State.inPhase_transfers (s : State) (p : Phase) (t : Txn) :
    (s.inPhase p).transfers t = ((s.transfers t).1, (s.transfers t).2.inPhase p) := by
  unfold State.transfers State.command
  rw [State.inPhase_transmit]
  rcases s.transmit (commandByte t.kind.dir t.addr) with ⟨st, u⟩
  cases st
  · exact u.inPhase_payload p t
  · rfl

theorem State.inPhase_runTxn (s : State) (p : Phase) (t : Txn) :
    (s.inPhase p).runTxn t = ((s.runTxn t).1, (s.runTxn t).2.inPhase p) := by
  have h : (s.inPhase p).clearRx.selAssert = s.clearRx.selAssert.inPhase p := rfl
  simp only [State.runTxn, h, State.inPhase_transfers]
  rfl

end Sys2Proof.Machine
end

