-- ==== Sys2Proof/Laws/Step.lean ====
section
/-! SUPPORT. What one step can do, said once: the inversion of the rows of rule R116, of the host's moves and of the
step at both grains. -/

namespace Sys2Proof.Machine

open Sys2Proof.Safety

/-- Every operation answers a next state, whatever the state. -/
theorem exec_answers_next (i : Instr) (s : State) : ∃ t, exec i s = .next t := by cases i <;> exact ⟨_, rfl⟩

/-- What one transfer leaves alone, and that it adds one event. -/
structure TransferFrame (s t : State) : Prop where
  req : t.req = s.req
  port : t.port = s.port
  sel : t.sel = s.sel
  handle : t.handle = s.handle
  params : t.params = s.params
  devMode : t.devMode = s.devMode
  resp : t.resp = s.resp
  hostLog : t.hostLog = s.hostLog
  phase : t.phase = s.phase
  dev : cellsWf s.dev = true → cellsWf t.dev = true
  trace : ∃ e, t.trace = s.trace ++ [e]

theorem State.transmit_frame (s : State) (b : Byte) : TransferFrame s (s.transmit b).2 := by
  constructor
  case dev =>
    intro wf
    simp only [State.transmit, State.logTx_dev]
    exact State.deviceTx_keeps_cellsWf _ _ _ (by simpa using wf)
  all_goals simp [State.transmit]

theorem State.receive_frame (s : State) (n : RxLen) : TransferFrame s (s.receive n).2 := by
  unfold State.receive
  split <;> constructor <;> simp

theorem State.command_frame (s : State) (t : Txn) : TransferFrame s (s.command t).2 := s.transmit_frame _

theorem State.payload_frame (s : State) (t : Txn) : TransferFrame s (s.payload t).2 := by
  unfold State.payload
  split
  · exact s.transmit_frame _
  · exact s.receive_frame _
  · exact s.receive_frame _

/-- What a whole transaction leaves alone; what it does to the rest is `TxnRan`. -/
structure TxnFrame (s t : State) : Prop where
  req : t.req = s.req
  port : t.port = s.port
  handle : t.handle = s.handle
  params : t.params = s.params
  devMode : t.devMode = s.devMode
  resp : t.resp = s.resp
  hostLog : t.hostLog = s.hostLog
  phase : t.phase = s.phase

theorem TransferFrame.toTxnFrame {s t : State} (h : TransferFrame s t) : TxnFrame s t :=
  ⟨h.req, h.port, h.handle, h.params, h.devMode, h.resp, h.hostLog, h.phase⟩

theorem TxnFrame.trans {s t u : State} (h : TxnFrame s t) (g : TxnFrame t u) : TxnFrame s u :=
  ⟨g.req.trans h.req, g.port.trans h.port, g.handle.trans h.handle, g.params.trans h.params,
    g.devMode.trans h.devMode, g.resp.trans h.resp, g.hostLog.trans h.hostLog, g.phase.trans h.phase⟩

theorem State.transfers_frame (s : State) (x : Txn) : TxnFrame s (s.transfers x).2 := by
  have hc := (s.command_frame x).toTxnFrame
  unfold State.transfers
  rcases e : s.command x with ⟨st, u⟩
  rw [e] at hc
  cases st
  · exact hc.trans (u.payload_frame x).toTxnFrame
  · exact hc

theorem State.runTxn_frame (s : State) (x : Txn) : TxnFrame s (s.runTxn x).2 :=
  have h := s.clearRx.selAssert.transfers_frame x
  ⟨h.req, h.port, h.handle, h.params, h.devMode, h.resp, h.hostLog, h.phase⟩

theorem State.memRead_frame (s : State) (a : RegAddr) : TxnFrame s (s.memRead a).2 := by
  have h := s.runTxn_frame (Txn.read a)
  unfold State.memRead
  rcases e : s.runTxn (Txn.read a) with ⟨st, u⟩
  rw [e] at h
  cases st <;> exact h

theorem State.memReadBurst_frame (s : State) : TxnFrame s s.memReadBurst.2 := by
  have h := s.runTxn_frame (Txn.burst s.params)
  unfold State.memReadBurst
  rcases e : s.runTxn (Txn.burst s.params) with ⟨st, u⟩
  rw [e] at h
  cases st <;> exact h

/-- After a transfer only the phase is new. -/
theorem State.afterTransfer_eq (r : Status × State) (k : TxnIndex) (p : SubPhase) :
    State.afterTransfer r k p =
      { r.2 with phase := .busy k (match r.1 with | .ok => p | .fail => .relFail) } := by
  unfold State.afterTransfer
  cases r.1 <;> rfl

/-- A completion writes the response and nothing else; its shape is one rule R23 allows. -/
theorem evalOp_next {i : Instr} {s t : State} (h : evalOp i s = .next t) :
    ∃ r, t = s.complete r ∧ respShape r = true ∧ (r.x = none ∧ r.y = none ∧ r.z = none ∨
      i = .rdxyz ∧ ∃ bs, fullBuffer s.rx = some bs ∧ r = burstResponse s.params.recon bs) := by
  cases i <;> simp only [evalOp] at h
  · cases h
    exact ⟨_, rfl, rfl, .inl ⟨rfl, rfl, rfl⟩⟩
  all_goals
    split at h <;> cases h
  · exact ⟨_, rfl, rfl, .inl ⟨rfl, rfl, rfl⟩⟩
  · exact ⟨_, rfl, by simp only [readbackResult]; split <;> rfl, .inl ⟨rfl, rfl, rfl⟩⟩
  · exact ⟨_, rfl, by simp only [readbackResult]; split <;> rfl, .inl ⟨rfl, rfl, rfl⟩⟩
  · exact ⟨_, rfl, by simp only [readbackResult]; split <;> rfl, .inl ⟨rfl, rfl, rfl⟩⟩
  · exact ⟨_, rfl, by simp only [identityResult]; split <;> rfl, .inl ⟨rfl, rfl, rfl⟩⟩
  · exact ⟨_, rfl, rfl, .inr ⟨rfl, _, by assumption, rfl⟩⟩

/-- The rows of rule R116 that a busy step can have taken. -/
theorem busyStep_next {s t : State} {k : TxnIndex} {p : SubPhase} (h : busyStep k p s = .next t) :
    ∃ w i x, s.req = some w ∧ decode w = some i ∧ transaction s.params i k = some x ∧
      ((p = .sel ∧ t = { s.clearRx.selAssert with phase := .busy k .cmd }) ∨
       (p = .cmd ∧ t = State.afterTransfer (s.command x) k .pay) ∨
       (p = .pay ∧ t = State.afterTransfer (s.payload x) k .relOk) ∨
       (p = .relOk ∧ k = .one ∧ (∃ y, transaction s.params i .two = some y) ∧
          t = { s.selDeassert with phase := .busy .two .sel }) ∨
       (p = .relOk ∧ evalOp i s.selDeassert = .next t) ∨
       (p = .relFail ∧ t = s.selDeassert.complete (Response.ofResult (failResult i)))) := by
  unfold busyStep at h
  split at h
  · cases h
  rename_i w hw
  split at h
  · cases h
  rename_i i hi
  unfold seqRow at h
  split at h
  · cases h
  rename_i x hx
  refine ⟨w, i, x, hw, hi, hx, ?_⟩
  cases p <;> simp only at h
  · cases h; simp
  · cases h; simp
  · cases h; simp
  · unfold releaseOk at h
    split at h
    · rename_i y hy; cases h; simp [hy]
    · simp [h]
    · simp [h]
  · cases h; simp

/-- The row of rule R116 that a busy engine takes, when its request has the running transaction. -/
theorem eventStep_row {s : State} {i : Instr} {k : TxnIndex} {p : SubPhase} {w : ReqWord} {x : Txn}
    (hp : s.phase = .busy k p) (hw : s.req = some w) (hi : decode w = some i)
    (hx : transaction s.params i k = some x) :
    eventStep s = (match p with
      | .sel => .next { s.clearRx.selAssert with phase := .busy k .cmd }
      | .cmd => .next (State.afterTransfer (s.command x) k .pay)
      | .pay => .next (State.afterTransfer (s.payload x) k .relOk)
      | .relOk => releaseOk i k s
      | .relFail => .next (s.selDeassert.complete (Response.ofResult (failResult i)))) := by
  simp only [eventStep, hp, busyStep, hw, hi, seqRow, hx]
  cases p <;> rfl

/-- The host's moves that answer a next state. -/
theorem idleStep_cases {run : Instr → State → Host.Outcome State Fault Refusal} {s t : State}
    (h : idleStep run s = .next t) :
    (s.port = [] ∧ t = s) ∨
    (∃ w rest i, s.port = .request w :: rest ∧ decode w = some i ∧
      run i ({ s with port := rest }.takeRequest w) = .next t) ∨
    (∃ l, t = { s with port := l }) ∨
    (∃ l f v, t = { s with port := l, hostLog := s.hostLog ++ [.got f v] }) := by
  unfold idleStep at h
  split at h
  · rename_i hp; cases h; exact .inl ⟨hp, rfl⟩
  · rename_i w rest hp
    unfold present at h
    split at h
    · rename_i i hi; exact .inr (.inl ⟨w, rest, i, hp, hi, h⟩)
    · cases h
  · unfold hostRead at h
    split at h
    · cases h; exact .inr (.inr (.inr ⟨_, _, _, rfl⟩))
    · cases h
  · unfold hostStopUnlessSuccess at h
    split at h <;> cases h
    · exact .inr (.inr (.inl ⟨_, rfl⟩))
    · exact .inr (.inr (.inl ⟨_, rfl⟩))

/-- Everything one event step can do. -/
theorem eventStep_cases {s t : State} (h : eventStep s = .next t) :
    (∃ k p, s.phase = .busy k p ∧ busyStep k p s = .next t) ∨
    (s.phase = .idle ∧
      ((∃ w rest i, s.port = .request w :: rest ∧ decode w = some i ∧ t = { s with port := rest }.takeRequest w) ∨
       ∃ l m, t = { s with port := l, hostLog := m })) := by
  unfold eventStep at h
  split at h
  · rename_i hp
    refine .inr ⟨hp, ?_⟩
    rcases idleStep_cases h with ⟨_, rfl⟩ | ⟨w, rest, i, a, b, c⟩ | ⟨l, rfl⟩ | ⟨l, f, v, rfl⟩
    · exact .inr ⟨_, _, rfl⟩
    · cases c; exact .inl ⟨w, rest, i, a, b, rfl⟩
    · exact .inr ⟨_, _, rfl⟩
    · exact .inr ⟨_, _, rfl⟩
  · rename_i k p hp; exact .inl ⟨k, p, hp, h⟩

/-- Everything one step can do. -/
theorem step_cases {s t : State} (h : step s = .next t) :
    (∃ k p, s.phase = .busy k p ∧ busyStep k p s = .next t) ∨
    (s.phase = .idle ∧
      ((∃ w rest i, s.port = .request w :: rest ∧ decode w = some i ∧
          exec i ({ s with port := rest }.takeRequest w) = .next t) ∨
       ∃ l m, t = { s with port := l, hostLog := m })) := by
  unfold step operationStep at h
  split at h
  · rename_i hp
    refine .inr ⟨hp, ?_⟩
    rcases idleStep_cases h with ⟨_, rfl⟩ | ⟨w, rest, i, a, b, c⟩ | ⟨l, rfl⟩ | ⟨l, f, v, rfl⟩
    · exact .inr ⟨_, _, rfl⟩
    · exact .inl ⟨w, rest, i, a, b, c⟩
    · exact .inr ⟨_, _, rfl⟩
    · exact .inr ⟨_, _, rfl⟩
  · rename_i k p hp; exact .inl ⟨k, p, hp, h⟩

/-- Event runs compose. -/
theorem eventRun_add {n m : Nat} {s t : State} (h : eventRun n s = .next t) : eventRun (n + m) s = eventRun m t := by
  induction n generalizing s with
  | zero => cases h; simp
  | succ n ih =>
    rw [Nat.add_right_comm]
    simp only [eventRun] at h ⊢
    split at h
    · exact ih h
    · cases h
    · cases h

/-- Scanning a trace in two parts. -/
theorem busScan_append (p : Params) (l l' : List Event) : ∀ b,
    busScan p b (l ++ l') = (match busScan p b l with | some b' => busScan p b' l' | none => none) := by
  induction l with
  | nil => intro b; rfl
  | cons e l ih =>
    intro b
    simp only [List.cons_append, busScan]
    cases busNext p b e with
    | none => rfl
    | some b' => simp only; rw [ih]

end Sys2Proof.Machine
end

