-- ==== Sys2Proof/Machine/Assembler.lean ====
section
/-! DEFINITION. The text of an assembler line (rule R95): a mnemonic, then operands separated by a comma, numbers in
hexadecimal with `0x` or in decimal, one request a line. -/

namespace Sys2Proof.Machine

/-- The value of a decimal digit. -/
def decDigit? (c : Char) : Option Nat :=
  if 48 ≤ c.toNat ∧ c.toNat ≤ 57 then some (c.toNat - 48) else none

/-- The value of a hexadecimal digit, in either case. -/
def hexDigit? (c : Char) : Option Nat :=
  if 48 ≤ c.toNat ∧ c.toNat ≤ 57 then some (c.toNat - 48)
  else if 65 ≤ c.toNat ∧ c.toNat ≤ 70 then some (c.toNat - 55)
  else if 97 ≤ c.toNat ∧ c.toNat ≤ 102 then some (c.toNat - 87)
  else none

/-- The digits of a number, most significant first, onto `acc`. -/
def digits? (digit? : Char → Option Nat) (base : Nat) : Nat → List Char → Option Nat
  | acc, [] => some acc
  | acc, c :: rest =>
    match digit? c with
    | some d => digits? digit? base (base * acc + d) rest
    | none => none

/-- A number: hexadecimal with `0x`, or decimal; at least one digit (rule R95). -/
def number? : List Char → Option Nat
  | [] => none
  | ['0', 'x'] => none
  | '0' :: 'x' :: rest => digits? hexDigit? 16 0 rest
  | cs => digits? decDigit? 10 0 cs

/-- A text cut at every `sep`. -/
def cutAt (sep : Char) : List Char → List (List Char)
  | [] => [[]]
  | c :: rest =>
    if c = sep then [] :: cutAt sep rest
    else
      match cutAt sep rest with
      | part :: parts => (c :: part) :: parts
      | [] => [[c]]

/-- A text without the blanks before and after it. -/
def trimmed (cs : List Char) : List Char :=
  ((cs.dropWhile fun c => c == ' ').reverse.dropWhile fun c => c == ' ').reverse

/-- A line as its mnemonic and its operands: the first blank ends the mnemonic, blanks around an operand are dropped.
DESIGN CHOICE, safe: the spec's examples have one blank after the mnemonic and after each comma (log entry 19). -/
def lineParts (cs : List Char) : List Char × List (List Char) :=
  match trimmed (cs.dropWhile fun c => c != ' ') with
  | [] => (cs.takeWhile fun c => c != ' ', [])
  | operands => (cs.takeWhile fun c => c != ' ', (cutAt ',' operands).map trimmed)

/-- The assembler line a text is (rule R95); `none` where it is none. -/
def parseLine (cs : List Char) : Option AsmLine :=
  match lineParts cs with
  | (['W', 'R', 'R', 'E', 'G'], [a, v]) =>
    match number? a, number? v with
    | some a, some v => some (.wrreg a v)
    | _, _ => none
  | (['R', 'D', 'R', 'E', 'G'], [a]) => (number? a).map .rdreg
  | (['S', 'E', 'T', 'O', 'D', 'R'], [v]) => (number? v).map .setodr
  | (['S', 'E', 'T', 'R', 'N', 'G'], [v]) => (number? v).map .setrng
  | (['S', 'E', 'T', 'M', 'E', 'A', 'S'], []) => some .setmeas
  | (['C', 'H', 'K', 'I', 'D'], []) => some .chkid
  | (['R', 'D', 'X', 'Y', 'Z'], []) => some .rdxyz
  | _ => none

/-- The request word of a line of text, for a line whose operands are in range (rules R87, R95). -/
def assembleText (cs : List Char) : Option ReqWord := ((parseLine cs).bind AsmLine.assemble).map encode

/-- A host program: one request a line (rule R95); `none` if a line is none. -/
def assembleProgram : List (List Char) → Option (List ReqWord)
  | [] => some []
  | l :: rest =>
    match assembleText l, assembleProgram rest with
    | some w, some ws => some (w :: ws)
    | _, _ => none

end Sys2Proof.Machine
end

