-- ==== Sys2Proof/Tests/Slice0.lean ====
section
/-! SUPPORT. Tests against the vectors of 95_test_vectors.md, and a witness for the hypotheses of each statement. -/

namespace Sys2Proof.Tests

open Sys2Proof Sys2Proof.Machine Sys2Proof.Safety

/-! Helpers: the binding EB1 of 95_test_vectors.md, a state over listed answers, what a test looks at. -/

def eb1 : Params where
  idAddr := 0x00#7
  idValue := 0xAD#8
  dataBase := 8
  odrAddr := 0x28#7
  rangeAddr := 0x2C#7
  pwrAddr := 0x2D#7
  measureEnc := 0x00#8
  standbyEnc := 0x01#8
  odrSet := [0x00#8, 0x01#8, 0x02#8, 0x03#8, 0x04#8, 0x05#8, 0x06#8, 0x07#8, 0x08#8, 0x09#8, 0x0A#8]
  rangeSet := [0x01#8, 0x02#8, 0x03#8]
  intFlags := [0x01#8, 0x02#8, 0x04#8, 0x08#8]
  resetAddr := 0x2F#7
  recon := .concatShift

def fails : Answer := ⟨.fail, Nine.const 0x00#8⟩

def gives (b : Byte) : Answer := ⟨.ok, Nine.const b⟩

def burst1 : Nine Byte := ⟨0x01, 0x23, 0x40, 0x02, 0x34, 0x50, 0x03, 0x45, 0x60⟩

def burst2 : Nine Byte := ⟨0xFF, 0xFF, 0xF0, 0x80, 0x00, 0x00, 0x7F, 0xFF, 0xF0⟩

/-- Reset under EB1, with the transport's answers listed. -/
def start (answers : List Answer) : State :=
  { State.reset with params := eb1, handle := ⟨1, 2, 3⟩, answers := answers }

/-- Reset under EB1, with the ideal device holding `dev`. -/
def ideal (dev : List Host.Cell) : State :=
  { State.reset with params := eb1, handle := ⟨1, 2, 3⟩, devMode := .ideal, dev := dev }

def after (o : Host.Outcome State Fault Refusal) : Option State :=
  match o with
  | .next s => some s
  | .fault _ => none
  | .refused _ => none

def stopsAt (o : Host.Outcome State Fault Refusal) : Option (Fault ⊕ Refusal) :=
  match o with
  | .next _ => none
  | .fault f => some (.inl f)
  | .refused r => some (.inr r)

/-- The trace and the response of a run. -/
def seen (o : Host.Outcome State Fault Refusal) : Option (List Event × Response) :=
  (after o).map fun s => (s.trace, s.resp)

/-! Decoding: words of 95_test_vectors.md L2-B, written bit by bit as `ooo aaaaaaa dddddddd`. -/

theorem test_decode_wrreg : decode 0b000_0101100_00000001#18 = some (.wrreg 0x2C#7 0x01#8) ∧
    decode 0b000_1111111_11111111#18 = some (.wrreg 0x7F#7 0xFF#8) := by decide

theorem test_decode_rdreg : decode 0b001_0101100_00000000#18 = some (.rdreg 0x2C#7) ∧
    decode 0b001_1111111_00000000#18 = some (.rdreg 0x7F#7) := by decide

theorem test_decode_setodr : decode 0b010_0000000_00000101#18 = some (.setodr 0x05#8) ∧
    decode 0x17F05#18 = some (.setodr 0x05#8) := by decide

theorem test_decode_setrng : decode 0b011_0000000_00000010#18 = some (.setrng 0x02#8) := by decide

theorem test_decode_setmeas : decode 0b100_0000000_00000000#18 = some .setmeas ∧
    decode 0x27F12#18 = some .setmeas := by decide

theorem test_decode_chkid : decode 0b101_0000000_00000000#18 = some .chkid ∧ decode 0x2FFFF#18 = some .chkid := by
  decide

theorem test_decode_rdxyz : decode 0b110_0000000_00000000#18 = some .rdxyz ∧ decode 0x37FFF#18 = some .rdxyz := by
  decide

theorem test_decode_reserved : decode 0b111_0000000_00000000#18 = none ∧ decode 0x3FFFF#18 = none := by decide

theorem test_decodeTableWord : decodeTableWord 18 0x02C01 = some (.wrreg 0x2C#7 0x01#8) ∧
    decodeTableWord 18 0x38000 = none := by decide

theorem test_encode : encode (.wrreg 0x2C#7 0x01#8) = 0x02C01#18 ∧ encode (.rdreg 0x04#7) = 0x08400#18 ∧
    encode (.setodr 0xFF#8) = 0x100FF#18 ∧ encode (.setrng 0x03#8) = 0x18003#18 ∧ encode .setmeas = 0x20000#18 ∧
    encode .chkid = 0x28000#18 ∧ encode .rdxyz = 0x30000#18 := by decide

/-- L2-A. -/
theorem test_commandByte : commandByte .write 0x2C#7 = 0x58#8 ∧ commandByte .read 0x2C#7 = 0x59#8 ∧
    commandByte .write 0x00#7 = 0x00#8 ∧ commandByte .read 0x7F#7 = 0xFF#8 ∧ commandByte .write 0x40#7 = 0x80#8 ∧
    commandAddr 0xAB#8 = 0x55#7 ∧ commandDir 0xAB#8 = .read ∧ commandDir 0xAA#8 = .write := by decide

/-- Lines of 95_test_vectors.md L2-B as text (rule R95), and lines that are none. -/
theorem test_assembleText : assembleText "WRREG 0x2C, 0x01".toList = some 0x02C01#18 ∧
    assembleText "RDREG 127".toList = some 0x0FF00#18 ∧ assembleText "SETODR 0xFF".toList = some 0x100FF#18 ∧
    assembleText "SETRNG 0x02".toList = some 0x18002#18 ∧ assembleText "CHKID".toList = some 0x28000#18 := by decide

theorem test_assembleText_refuses : assembleText "WRREG 0x80, 0x01".toList = none ∧
    assembleText "WRREG 0x2C".toList = none ∧ assembleText "SETODR 0x".toList = none ∧
    assembleText "STANDBY".toList = none ∧ assembleText "RDREG 0x2G".toList = none ∧
    assembleText "RDREG 1 2".toList = none ∧ assembleText "RDREG 1,".toList = none := by decide

/-- Requests 1 to 3 of program P2. -/
theorem test_assembleProgram : assembleProgram ["CHKID".toList, "SETODR 0x03".toList, "RDXYZ".toList] =
    some [0x28000#18, 0x10003#18, 0x30000#18] := by decide

/-! Well-formedness: each check refuses an ill-formed term, and accepts the nearest good one. -/

theorem test_opWellFormed_refuses_seven : opWellFormed 0b111#3 = false ∧ opWellFormed 0b110#3 = true := by decide

theorem test_asm_refuses_wide_address : (AsmLine.wrreg 128 0).wellFormed = false ∧
    (AsmLine.rdreg 128).wellFormed = false ∧ (AsmLine.wrreg 127 255).wellFormed = true ∧
    (AsmLine.rdreg 127).wellFormed = true := by decide

theorem test_asm_refuses_wide_value : (AsmLine.wrreg 0 256).wellFormed = false ∧
    (AsmLine.setodr 256).wellFormed = false ∧ (AsmLine.setrng 256).wellFormed = false ∧
    (AsmLine.setodr 255).wellFormed = true ∧ (AsmLine.setrng 255).wellFormed = true := by decide

/-- L2-I: `DATA_BASE = 0x78` is refused, `0x77` accepted (rule R11). -/
theorem test_dataBase_refuses_0x78 : Params.dataBase? 0x78#7 = none ∧ Params.dataBase? 0x77#7 = some 119 := by decide

theorem test_params_wellFormed : eb1.wellFormed = true ∧ { eb1 with odrSet := [] }.wellFormed = false ∧
    { eb1 with rangeSet := [0x01#8, 0x01#8, 0x02#8] }.wellFormed = false ∧
    { eb1 with intFlags := [] }.wellFormed = false ∧ { eb1 with pwrAddr := 0x28#7 }.wellFormed = false := by decide

/-! Runs: L2-C, L2-F, L2-G, L2-H. -/

/-- Rows C1 and C2. -/
theorem test_wrreg_runs :
    seen (exec (.wrreg 0x2C#7 0x01#8) (start [gives 0, gives 0])) =
      some ([.selA, .tx [0x58#8] .ok, .tx [0x01#8] .ok, .selD], Response.ofResult .success) ∧
    seen (exec (.wrreg 0x2C#7 0x01#8) (start [gives 0, fails])) =
      some ([.selA, .tx [0x58#8] .ok, .tx [0x01#8] .fail, .selD], Response.ofResult .busError) := by decide

/-- Row C3. -/
theorem test_wrreg_command_fails :
    seen (exec (.wrreg 0x2C#7 0x01#8) (start [fails])) =
      some ([.selA, .tx [0x58#8] .fail, .selD], Response.ofResult .busError) := by decide

/-- Rows C7 and C9. -/
theorem test_rdreg_runs :
    seen (exec (.rdreg 0x2C#7) (start [gives 0, gives 0x81#8])) =
      some ([.selA, .tx [0x59#8] .ok, .rx 1 .ok (some [0x81#8]), .selD], Response.ofByte 0x81#8) ∧
    seen (exec (.rdreg 0x2C#7) (start [fails])) =
      some ([.selA, .tx [0x59#8] .fail, .selD], Response.ofResult .busError) := by decide

/-- Row C8. -/
theorem test_rdreg_receive_fails :
    seen (exec (.rdreg 0x2C#7) (start [gives 0, fails])) =
      some ([.selA, .tx [0x59#8] .ok, .rx 1 .fail none, .selD], Response.ofResult .busError) := by decide

/-- Row F3: all eight bits are compared. -/
theorem test_setodr_mismatch :
    seen (exec (.setodr 0x05#8) (start [gives 0, gives 0, gives 0, gives 0x85#8])) =
      some ([.selA, .tx [0x50#8] .ok, .tx [0x05#8] .ok, .selD, .selA, .tx [0x51#8] .ok, .rx 1 .ok (some [0x85#8]), .selD],
        Response.ofResult .readbackMismatch) := by decide

/-- Row F6: the second command fails. -/
theorem test_setodr_second_command_fails :
    seen (exec (.setodr 0x05#8) (start [gives 0, gives 0, fails])) =
      some ([.selA, .tx [0x50#8] .ok, .tx [0x05#8] .ok, .selD, .selA, .tx [0x51#8] .fail, .selD],
        Response.ofResult .busError) := by decide

/-- Row F9. -/
theorem test_setrng_success :
    seen (exec (.setrng 0x02#8) (start [gives 0, gives 0, gives 0, gives 0x02#8])) =
      some ([.selA, .tx [0x58#8] .ok, .tx [0x02#8] .ok, .selD, .selA, .tx [0x59#8] .ok, .rx 1 .ok (some [0x02#8]), .selD],
        Response.ofResult .success) := by decide

/-- Row F11. -/
theorem test_setmeas_success :
    seen (exec .setmeas (start [gives 0, gives 0, gives 0, gives 0x00#8])) =
      some ([.selA, .tx [0x5A#8] .ok, .tx [0x00#8] .ok, .selD, .selA, .tx [0x5B#8] .ok, .rx 1 .ok (some [0x00#8]), .selD],
        Response.ofResult .success) := by decide

/-- Row F13. -/
theorem test_setmeas_command_fails :
    seen (exec .setmeas (start [fails])) = some ([.selA, .tx [0x5A#8] .fail, .selD], Response.ofResult .busError) := by
  decide

/-- Rows G1 and G3. -/
theorem test_chkid_compares :
    seen (exec .chkid (start [gives 0, gives 0xAD#8])) =
      some ([.selA, .tx [0x01#8] .ok, .rx 1 .ok (some [0xAD#8]), .selD], Response.ofResult .success) ∧
    seen (exec .chkid (start [gives 0, gives 0x2D#8])) =
      some ([.selA, .tx [0x01#8] .ok, .rx 1 .ok (some [0x2D#8]), .selD], Response.ofResult .identityMismatch) := by
  decide

/-- Row G8: a failed bus is IdentityMismatch, not BusError. -/
theorem test_chkid_command_fails :
    seen (exec .chkid (start [fails])) =
      some ([.selA, .tx [0x01#8] .fail, .selD], Response.ofResult .identityMismatch) := by decide

/-- Row H1. -/
theorem test_rdxyz_success :
    seen (exec .rdxyz (start [gives 0, ⟨.ok, burst1⟩])) =
      some ([.selA, .tx [0x11#8] .ok, .rx 9 .ok (some burst1.toList), .selD], Response.ofAxes 4660#32 9029#32 13398#32) := by
  decide

/-- Row H3. -/
theorem test_rdxyz_receive_fails :
    seen (exec .rdxyz (start [gives 0, fails])) =
      some ([.selA, .tx [0x11#8] .ok, .rx 9 .fail none, .selD], Response.ofResult .busError) := by decide

/-! The decoder: L2-D, L2-E and the encoding direction. -/

theorem test_decoder_signs :
    decodeFrame .concatShift burst2 = ⟨BitVec.ofInt 32 (-1), BitVec.ofInt 32 (-524288), 524287#32⟩ ∧
    decodeFrame .concatShift ⟨0xFE, 0xDC, 0xB0, 0x00, 0x3E, 0x80, 0x3E, 0x80, 0x00⟩ =
      ⟨BitVec.ofInt 32 (-4661), 1000#32, 256000#32⟩ := by decide

theorem test_decoder_padding : (sx20 (recon 0x80 0x00 0x0F)).toInt = -524288 ∧
    (sx20 (recon 0xAB 0xCD 0xEF)).toInt = -344866 ∧ (sx20 (recon 0x00 0x00 0x1F)).toInt = 1 := by decide

theorem test_decoder_literal : (axisOf .literal 0x01 0x23 0x40).toInt = 74500 ∧
    (axisOf .literal 0x08 0x00 0x00).toInt = -524288 ∧ (axisOf .literal 0x7F 0xFF 0xF0).toInt = -241 ∧
    (axisOf .literal 0x80 0x00 0x00).toInt = 8388608 := by decide

theorem test_sampleBytes : sampleBytes 100000#32 = (0x18#8, 0x6A#8, 0x00#8) ∧
    sampleBytes (BitVec.ofInt 32 (-12345)) = (0xFC#8, 0xFC#8, 0x70#8) := by decide

/-! The step: requests at the port, from the reset state, and the host's moves (L2-I). -/

theorem test_step_runs_from_reset : (after (step (State.reset.withFetchWord 18 0x30000))).isSome = true ∧
    (after (step (State.reset.withFetchWord 18 0x02C01))).isSome = true := by decide

theorem test_step_refuses_reserved : stopsAt (step (State.reset.withFetchWord 18 0x38000)) =
    some (.inr (.reservedRequest 0x38000#18)) := by decide

/-- P4, requests 1 and 2, on the ideal device, each one step. -/
theorem test_round_trip_on_ideal_device :
    ((after (step ((ideal []).withFetchWord 18 0x02D01))).bind fun s =>
      (after (step (s.withFetchWord 18 0x0AD00))).map fun t => (t.resp, t.dev, t.hostLog.length)) =
      some (Response.ofByte 0x01#8, [(0x2D, 0x01#8)], 4) := by decide

/-- Row F1 at the grain of one bus event: nine steps (rule R116). -/
theorem test_event_run_is_nine_steps :
    (after (eventRun 9 ((start [gives 0, gives 0, gives 0, gives 0x05#8]).withFetchWord 18 0x10005))).map
      (fun s => (s.trace.length, s.phase, s.resp)) = some (8, .idle, Response.ofResult .success) := by decide

/-! Witnesses: for each statement, states and operands that meet its hypotheses together, clause by clause. -/

/-- The state with a request at the port, and host moves after it. -/
def asked (w : ReqWord) (answers : List Answer) : State := { start answers with port := [.request w] }

/-- IgnoredFieldsHaveNoEffect: two different words of one instruction. -/
theorem witness_ignored_fields : decode 0x0AC00#18 = some (.rdreg 0x2C#7) ∧ decode 0x0ACFF#18 = some (.rdreg 0x2C#7) := by
  decide

/-- ReservedRequestIsRefused, OpcodeTableCoversAndIsDisjoint. -/
theorem witness_reserved : opField 0x38000#18 = 0b111#3 ∧ (asked 0x38000#18 []).phase = .idle ∧
    (asked 0x38000#18 []).port = .request 0x38000#18 :: [] ∧ opField 0x37FFF#18 ≠ 0b111#3 ∧
    (⟨0x30000#18, 0x38000#18⟩ : OpRow) ∈ opcodeTable ∧
    (⟨0x30000#18, 0x38000#18⟩ : OpRow).accepts 0x37FFF#18 = true := by decide

/-- AssemblerLinesGiveTheirWords: the boundary of each range. -/
theorem witness_assembler : (AsmLine.wrreg 127 255).assemble.map encode = some 0x07FFF#18 ∧
    (AsmLine.rdreg 127).assemble.map encode = some 0x0FF00#18 ∧ (AsmLine.setodr 255).assemble.map encode = some 0x100FF#18 ∧
    (AsmLine.setrng 255).assemble.map encode = some 0x180FF#18 ∧ (AsmLine.wrreg 128 0).assemble = none ∧
    (AsmLine.wrreg 0 256).assemble = none := by decide

/-- StepRunsTheDecodedRequest, TakingARequestLatchesIt, SequencerRefinesTheOperation. -/
theorem witness_request_at_the_port : (asked 0x2FFFF#18 [fails]).phase = .idle ∧
    (asked 0x2FFFF#18 [fails]).port = .request 0x2FFFF#18 :: [] ∧ decode 0x2FFFF#18 = some .chkid ∧
    opField 0x2FFFF#18 ≠ 0b111#3 ∧ decodeTableWord 18 0x2FFFF = some .chkid := by decide

/-- ReadingNoValueIsAFault: a field with a value and one without. -/
theorem witness_reading :
    ({ start [] with port := [.read .rdata] } : State).port = .read .rdata :: [] ∧
    (({ start [] with resp := Response.ofByte 0x81#8, port := [.read .rdata] } : State).resp.field .rdata
      = some (.byte 0x81#8)) ∧
    (({ start [] with resp := Response.ofResult .busError, port := [.read .rdata] } : State).resp.field .rdata = none) ∧
    ({ start [] with port := [.read .rdata] } : State).phase = .idle := by decide

/-- HostStopsAndIdleEngineWaits: the clauses are told apart by the result. -/
theorem witness_host_stops :
    (Response.ofResult .success).result = some .success ∧
    (Response.ofResult .busError).result = some .busError ∧ Result.busError ≠ .success ∧
    Response.empty.result = none ∧ ({ start [] with port := [.stopUnlessSuccess] } : State).phase = .idle ∧
    ({ start [] with port := [.stopUnlessSuccess] } : State).port = .stopUnlessSuccess :: [] ∧
    (start []).phase = .idle ∧ (start []).port = [] := by decide

/-- WriteRegisterRuns, ReadRegisterRuns, CheckIdentityRuns, BurstRuns, IgnoredFieldsHaveNoEffect and the others over two
transfers: each pattern of answers. -/
theorem witness_two_transfers : statusAt (start [fails]) 0 = .fail ∧
    (statusAt (start [gives 0, fails]) 0 = .ok ∧ statusAt (start [gives 0, fails]) 1 = .fail) ∧
    statusAt (start [gives 0, gives 0]) 0 = .ok ∧ statusAt (start [gives 0, gives 0]) 1 = .ok := by decide

/-- SetDataRateRuns, SetRangeRuns, SetMeasureRuns: the patterns in the second transaction. -/
theorem witness_four_transfers :
    (∀ k, k < 2 → statusAt (start [gives 0, gives 0, fails]) k = .ok) ∧
    statusAt (start [gives 0, gives 0, fails]) 2 = .fail ∧
    (∀ k, k < 3 → statusAt (start [gives 0, gives 0, gives 0, fails]) k = .ok) ∧
    statusAt (start [gives 0, gives 0, gives 0, fails]) 3 = .fail ∧
    ∀ k, k < 4 → statusAt (start [gives 0, gives 0, gives 0, gives 5]) k = .ok := by decide

/-- FailureInjectedAnywhere at the last transfer, EventCountsWithoutFailure. -/
theorem witness_injection : 3 < transferCount .setmeas ∧
    (∀ j, j < 3 → statusAt (start [gives 0, gives 0, gives 0, fails]) j = .ok) ∧
    statusAt (start [gives 0, gives 0, gives 0, fails]) 3 = .fail ∧
    ∀ k, k < transferCount .setmeas → statusAt (start [gives 0, gives 0, gives 0, gives 0]) k = .ok := by decide

/-- OperationsForgetTheirPast: two states that differ in everything an earlier operation left. -/
theorem witness_same_inputs :
    SameInputs (start [gives 0]) { start [gives 0] with
      resp := Response.ofByte 0x01#8, rx := Nine.const (some 0x55#8), req := some 0x30000#18, trace := [.selA, .selD] } :=
  ⟨rfl, rfl, rfl, rfl, rfl⟩

/-- OperationsLeaveTheRestAlone, ReadsLeaveTheDeviceAlone, WritesChangeOneDeviceByte: every operation answers a next
state, also on the ideal device. -/
theorem witness_operations_run : (after (exec .chkid (ideal [(0, 0xAD#8)]))).isSome = true ∧
    (after (exec .rdxyz (ideal []))).isSome = true ∧ (after (exec (.rdreg 4#7) (ideal []))).isSome = true ∧
    (after (exec (.wrreg 4#7 1#8) (ideal []))).isSome = true ∧ (after (exec (.setodr 5#8) (ideal []))).isSome = true ∧
    (after (exec (.setrng 5#8) (ideal []))).isSome = true ∧ (after (exec .setmeas (ideal []))).isSome = true ∧
    (start []).devMode = .oracle ∧ (after (exec .setmeas (start [fails]))).isSome = true := by decide

/-- IdealDeviceTakesTheWrite, WriteThenReadReturnsTheValue, IdealBurstReadsNineRegisters. -/
theorem witness_ideal_device : (ideal [(4, 1#8)]).devMode = .ideal ∧ cellsWf (ideal [(4, 1#8)]).dev = true ∧
    (ideal [(4, 1#8)]).answers = [] ∧ statusAt (ideal [(4, 1#8)]) 0 = .ok ∧ statusAt (ideal [(4, 1#8)]) 1 = .ok := by decide

/-- FailedWriteLeavesAFreeValue: a failed command, and a failed value after a good command. -/
theorem witness_failed_write :
    ({ ideal [(4, 1#8)] with answers := [gives 0, fails] } : State).devMode = .ideal ∧
    cellsWf ({ ideal [(4, 1#8)] with answers := [gives 0, fails] } : State).dev = true ∧
    statusAt { ideal [(4, 1#8)] with answers := [fails] } 0 = .fail ∧
    statusAt { ideal [(4, 1#8)] with answers := [gives 0, fails] } 0 = .ok ∧
    statusAt { ideal [(4, 1#8)] with answers := [gives 0, fails] } 1 = .fail := by decide

/-- DeviceCellsStayCanonical: the form refuses a wrong order, a repeated address and a listed default. -/
theorem witness_cells : (after (step ((ideal [(4, 1#8)]).withFetchWord 18 0x02D01))).isSome = true ∧
    (after (eventStep ((ideal [(4, 1#8)]).withFetchWord 18 0x02D01))).isSome = true ∧ cellsWf [(4, 1#8), (7, 2#8)] = true ∧ cellsWf [(7, 1#8), (4, 2#8)] = false ∧
    cellsWf [(4, 1#8), (4, 2#8)] = false ∧ cellsWf [(4, 0#8)] = false ∧ cellsWf State.reset.dev = true := by decide

/-- SignExtensionForms, SampleBytesDecodeBack, AxisRangeIsExact, PaddingIsIgnored: the ends of each range. -/
theorem witness_samples : (0x00000#32).toNat < 2 ^ 20 ∧ (0xFFFFF#32).toNat < 2 ^ 20 ∧
    (0x7FFFE#32).toNat < (0x7FFFF#32).toNat ∧ (0x7FFFF#32).toNat < 2 ^ 19 ∧ 2 ^ 19 ≤ (0x80000#32).toNat ∧
    (0x80000#32).toNat < (0xFFFFF#32).toNat ∧ -524288 ≤ (BitVec.ofInt 32 (-524288)).toInt ∧
    (BitVec.ofInt 32 524287).toInt ≤ 524287 ∧ (15#8).toNat < 16 := by decide

/-- The state of row F1 after `n` event steps. -/
def midway (n : Nat) : State :=
  match eventRun n (asked 0x10005#18 [gives 0, gives 0, gives 0, gives 5]) with
  | .next s => s
  | .fault _ => start []
  | .refused _ => start []

/-- BusyStepCausesOneEvent, SelectLineFollowsThePhase, ConfigurationIsConstant, GenericErrorIsNeverProduced: busy states
whose step answers a next state. -/
theorem witness_busy_steps : (midway 1).phase = .busy .one .sel ∧ (midway 5).phase = .busy .two .sel ∧
    (midway 8).phase = .busy .two .relOk ∧ (after (eventStep (midway 8))).isSome = true ∧
    (after (step (midway 3))).isSome = true ∧ (midway 8).sel = selFor (midway 8).phase ∧
    (midway 8).resp.result ≠ some .genericError := by decide

/-- BusyEngineIsNeverStuck, EventStepKeepsTheInvariant, StepKeepsTheInvariant: the invariant in busy phases and idle. -/
theorem witness_invariant_sel : Inv (midway 1) := ⟨by decide, by decide, by decide, by decide, by decide, by decide⟩

theorem witness_invariant_cmd : Inv (midway 2) := ⟨by decide, by decide, by decide, by decide, by decide, by decide⟩

theorem witness_invariant_pay : Inv (midway 7) := ⟨by decide, by decide, by decide, by decide, by decide, by decide⟩

theorem witness_invariant_relOk : Inv (midway 8) := ⟨by decide, by decide, by decide, by decide, by decide, by decide⟩

theorem witness_invariant_idle : Inv (midway 9) := ⟨by decide, by decide, by decide, by decide, by decide, by decide⟩

/-- CHKID after a failed command transmit, the release still to come. -/
def failing : State := (after (eventRun 3 (asked 0x28000#18 [fails]))).getD (start [])

theorem witness_failing_phase : failing.phase = .busy .one .relFail := by decide

theorem witness_invariant_relFail : Inv failing :=
  ⟨by decide, by decide, by decide, by decide, by decide, by decide⟩

/-- ResponseAxesStayInRange: a response with axes at both ends of the range. -/
theorem witness_axes_in_range : (start []).params.recon = .concatShift ∧
    respInRange (Response.ofAxes (BitVec.ofInt 32 (-524288)) 524287#32 0#32) = true ∧
    respInRange (Response.ofAxes 524288#32 0#32 0#32) = false ∧ respInRange (midway 8).resp = true ∧
    (midway 8).params.recon = .concatShift ∧ (after (step (midway 8))).isSome = true := by decide

end Sys2Proof.Tests
end

section
/-! PROOFS. The command byte as a number: twice the address plus the direction bit (rules R84, R86). -/

namespace Sys2Proof.CommandByte

open Sys2Proof.Machine

/-- The address and the direction bit do not overlap, so their `|||` is a sum and no bit is lost (rule R87). -/
theorem toNat_commandByte (d : Dir) (a : RegAddr) : (commandByte d a).toNat = 2 * a.toNat + d.bit.toNat := by
  have ha := a.isLt
  have hd := d.bit.isLt
  have hor : a.toNat <<< 1 ||| d.bit.toNat = a.toNat <<< 1 + d.bit.toNat :=
    (Nat.shiftLeft_add_eq_or_of_lt hd a.toNat).symm
  rw [Nat.shiftLeft_eq] at hor
  simp only [commandByte, BitVec.toNat_or, BitVec.toNat_shiftLeft, BitVec.toNat_setWidth, Nat.shiftLeft_eq]
  rw [Nat.mod_eq_of_lt (by omega : d.bit.toNat < 2 ^ 8), Nat.mod_eq_of_lt (by omega : a.toNat < 2 ^ 8),
    Nat.mod_eq_of_lt (by omega : a.toNat * 2 ^ 1 < 2 ^ 8), Nat.or_comm, hor]
  omega

theorem toNat_commandAddr (c : Byte) : (commandAddr c).toNat = c.toNat / 2 := by
  have hc := c.isLt
  rw [commandAddr, BitVec.extractLsb'_toNat, Nat.shiftRight_eq_div_pow]
  omega

theorem toNat_bit_commandDir (c : Byte) : (commandDir c).bit.toNat = c.toNat % 2 := by
  have h0 : c.getLsbD 0 = decide (c.toNat % 2 = 1) := by rw [BitVec.getLsbD, Nat.testBit_zero]
  rw [commandDir, h0]
  rcases Nat.mod_two_eq_zero_or_one c.toNat with heven | hodd
  · rw [heven]; rfl
  · rw [hodd]; rfl

/-- With `commandDir_commandByte` and `commandAddr_commandByte`: taking a byte apart is the two-sided inverse of
`commandByte`. -/
theorem commandByte_commandDir_commandAddr (c : Byte) : commandByte (commandDir c) (commandAddr c) = c := by
  apply BitVec.eq_of_toNat_eq
  rw [toNat_commandByte, toNat_commandAddr, toNat_bit_commandDir]
  exact Nat.div_add_mod c.toNat 2

theorem commandByte_read_eq_write_add_one (a : RegAddr) : commandByte .read a = commandByte .write a + 1#8 := by
  have ha := a.isLt
  apply BitVec.eq_of_toNat_eq
  rw [BitVec.toNat_add, toNat_commandByte, toNat_commandByte]
  simp only [Dir.bit, BitVec.toNat_ofNat]
  omega

theorem commandByte_read_ne_write (a : RegAddr) : commandByte .read a ≠ commandByte .write a := fun h =>
  have hdir : Dir.read = Dir.write := by simpa only [commandDir_commandByte] using congrArg commandDir h
  Dir.noConfusion hdir

theorem commandByte_ushiftRight_one (d : Dir) (a : RegAddr) : commandByte d a >>> 1 = a.setWidth 8 := by
  have ha := a.isLt
  have hd := d.bit.isLt
  apply BitVec.eq_of_toNat_eq
  rw [BitVec.toNat_ushiftRight, toNat_commandByte, Nat.shiftRight_eq_div_pow, BitVec.toNat_setWidth]
  omega

theorem commandByte_and_one (d : Dir) (a : RegAddr) : commandByte d a &&& 1#8 = d.bit.setWidth 8 := by
  have hd := d.bit.isLt
  apply BitVec.eq_of_toNat_eq
  rw [BitVec.toNat_and, toNat_commandByte, BitVec.toNat_setWidth, BitVec.toNat_ofNat,
    show 1 % 2 ^ 8 = 1 from rfl, Nat.and_one_is_mod]
  omega

/-- Settles O7: the low bit and the bits above it take every byte apart in exactly one way. -/
theorem commandByteIsABijection : Obligations.CommandByteIsABijection := by
  refine ⟨fun a => ⟨commandByte_read_ne_write a, commandByte_read_eq_write_add_one a⟩,
    fun d a => ⟨commandByte_ushiftRight_one d a, ?_⟩,
    fun c => ⟨commandDir c, commandAddr c, commandByte_commandDir_commandAddr c, ?_⟩⟩
  · rw [commandByte_and_one]
    cases d <;> rfl
  · rintro d a rfl
    exact ⟨(commandDir_commandByte d a).symm, (commandAddr_commandByte d a).symm⟩

end Sys2Proof.CommandByte
end

section
/-! PROOFS. Every operation is transactions followed by one completion (rules R111, R140, R203), so what `TxnRan` says
of a transaction holds of a whole operation. -/

namespace Sys2Proof.Machine

open Sys2Proof.Safety

/-- `u` is reached from `s` by whole transactions. -/
def Transacted (s u : State) : Prop := ∃ n ev rx, TxnRan s u n ev rx

theorem Transacted.trans {s u v : State} (h : Transacted s u) (h' : Transacted u v) : Transacted s v := by
  obtain ⟨_, _, _, ran⟩ := h
  obtain ⟨_, _, _, ran'⟩ := h'
  exact ⟨_, _, _, ran.trans ran'⟩

theorem Transacted.of_row {s : State} {x : Txn} {st : Status} {n : Nat} {ev : List Event} {rx : Nine (Option Byte)}
    (h : ∃ u, s.runTxn x = (st, u) ∧ TxnRan s u n ev rx) : Transacted s (s.runTxn x).2 := by
  obtain ⟨u, hu, ran⟩ := h
  rw [hu]
  exact ⟨n, ev, rx, ran⟩

/-- The rows of a transaction, by its command's status, its kind and its payload's status (rules R111, R114). -/
theorem State.runTxn_transacted (s : State) (x : Txn) : Transacted s (s.runTxn x).2 := by
  have read_row : ∀ n : RxLen, statusAt s 0 = .ok → (x.kind = .r1 ∧ n = .one ∨ x.kind = .r9 ∧ n = .nine) →
      Transacted s (s.runTxn x).2 := by
    intro n h0 hk
    cases h1 : statusAt s 1
    · exact .of_row (s.runTxn_ran_read_ok x n h0 h1 hk)
    · exact .of_row (s.runTxn_ran_read_fail x n h0 h1 hk)
  cases h0 : statusAt s 0
  · obtain ⟨kind, a, v⟩ := x
    cases kind
    · exact .of_row (s.runTxn_ran_write a v h0)
    · exact read_row .one h0 (.inl ⟨rfl, rfl⟩)
    · exact read_row .nine h0 (.inr ⟨rfl, rfl⟩)
  · exact .of_row (s.runTxn_ran_command_fail x h0)

theorem State.memRead_snd (s : State) (a : RegAddr) : (s.memRead a).2 = (s.runTxn (Txn.read a)).2 := by
  unfold State.memRead
  rcases s.runTxn (Txn.read a) with ⟨_ | _, u⟩ <;> rfl

theorem State.memReadBurst_snd (s : State) : s.memReadBurst.2 = (s.runTxn (Txn.burst s.params)).2 := by
  unfold State.memReadBurst
  rcases s.runTxn (Txn.burst s.params) with ⟨_ | _, u⟩ <;> rfl

theorem State.memWrite_transacted (s : State) (a : RegAddr) (v : Byte) : Transacted s (s.memWrite a v).2 :=
  s.runTxn_transacted _

theorem State.memRead_transacted (s : State) (a : RegAddr) : Transacted s (s.memRead a).2 := by
  rw [s.memRead_snd]
  exact s.runTxn_transacted _

theorem State.memReadBurst_transacted (s : State) : Transacted s s.memReadBurst.2 := by
  rw [s.memReadBurst_snd]
  exact s.runTxn_transacted _

/-- `SetVerify` is one or two transactions and a completion (rule R140). -/
theorem State.setVerify_completes (s : State) (a : RegAddr) (v : Byte) :
    ∃ u r, s.setVerify a v = u.complete r ∧ Transacted s u := by
  have hw := s.memWrite_transacted a v
  rcases ew : s.memWrite a v with ⟨_ | _, u⟩ <;> rw [ew] at hw
  · have hr := hw.trans (u.memRead_transacted a)
    rcases er : u.memRead a with ⟨_ | b, w⟩ <;> rw [er] at hr
    · exact ⟨w, _, State.setVerify_of_read_fail ew er, hr⟩
    · exact ⟨w, _, State.setVerify_of_read_ok ew er, hr⟩
  · exact ⟨u, _, State.setVerify_of_write_fail ew, hw⟩

theorem exec_wrreg_of_ok {s u : State} {a : RegAddr} {d : Byte} (h : s.memWrite a d = (.ok, u)) :
    exec (.wrreg a d) s = .next (u.complete (Response.ofResult .success)) := by
  simp only [exec, execWrreg, h]

theorem exec_wrreg_of_fail {s u : State} {a : RegAddr} {d : Byte} (h : s.memWrite a d = (.fail, u)) :
    exec (.wrreg a d) s = .next (u.complete (Response.ofResult .busError)) := by
  simp only [exec, execWrreg, h]

theorem exec_rdreg_of_some {s u : State} {a : RegAddr} {b : Byte} (h : s.memRead a = (some b, u)) :
    exec (.rdreg a) s = .next (u.complete (Response.ofByte b)) := by
  simp only [exec, execRdreg, h]

theorem exec_rdreg_of_none {s u : State} {a : RegAddr} (h : s.memRead a = (none, u)) :
    exec (.rdreg a) s = .next (u.complete (Response.ofResult .busError)) := by
  simp only [exec, execRdreg, h]

theorem exec_chkid_of_some {s u : State} {b : Byte} (h : s.memRead s.params.idAddr = (some b, u)) :
    exec .chkid s = .next (u.complete (Response.ofResult (identityResult u.params.idValue b))) := by
  simp only [exec, execChkid, h]

theorem exec_chkid_of_none {s u : State} (h : s.memRead s.params.idAddr = (none, u)) :
    exec .chkid s = .next (u.complete (Response.ofResult .identityMismatch)) := by
  simp only [exec, execChkid, h]

theorem exec_rdxyz_of_some {s u : State} {bs : Nine Byte} (h : s.memReadBurst = (some bs, u)) :
    exec .rdxyz s = .next (u.complete (burstResponse u.params.recon bs)) := by
  simp only [exec, execRdxyz, h]

theorem exec_rdxyz_of_none {s u : State} (h : s.memReadBurst = (none, u)) :
    exec .rdxyz s = .next (u.complete (Response.ofResult .busError)) := by
  simp only [exec, execRdxyz, h]

/-- Every operation is whole transactions and then one completion (rule R203). -/
theorem exec_completes (i : Instr) (s : State) : ∃ u r, exec i s = .next (u.complete r) ∧ Transacted s u := by
  have of_setVerify : ∀ a v, ∃ u r, Host.Outcome.next (s.setVerify a v) =
      (.next (u.complete r) : Host.Outcome State Fault Refusal) ∧ Transacted s u := by
    intro a v
    obtain ⟨u, r, e, h⟩ := s.setVerify_completes a v
    exact ⟨u, r, congrArg _ e, h⟩
  cases i with
  | wrreg a d =>
    have h := s.memWrite_transacted a d
    rcases e : s.memWrite a d with ⟨_ | _, u⟩ <;> rw [e] at h
    · exact ⟨u, _, exec_wrreg_of_ok e, h⟩
    · exact ⟨u, _, exec_wrreg_of_fail e, h⟩
  | rdreg a =>
    have h := s.memRead_transacted a
    rcases e : s.memRead a with ⟨_ | b, u⟩ <;> rw [e] at h
    · exact ⟨u, _, exec_rdreg_of_none e, h⟩
    · exact ⟨u, _, exec_rdreg_of_some e, h⟩
  | setodr d => exact of_setVerify _ _
  | setrng d => exact of_setVerify _ _
  | setmeas => exact of_setVerify _ _
  | chkid =>
    have h := s.memRead_transacted s.params.idAddr
    rcases e : s.memRead s.params.idAddr with ⟨_ | b, u⟩ <;> rw [e] at h
    · exact ⟨u, _, exec_chkid_of_none e, h⟩
    · exact ⟨u, _, exec_chkid_of_some e, h⟩
  | rdxyz =>
    have h := s.memReadBurst_transacted
    rcases e : s.memReadBurst with ⟨_ | bs, u⟩ <;> rw [e] at h
    · exact ⟨u, _, exec_rdxyz_of_none e, h⟩
    · exact ⟨u, _, exec_rdxyz_of_some e, h⟩

end Sys2Proof.Machine
end

section
/-! PROOFS. WRREG and RDREG by the transport's answers (rules R121, R122), and the calls of every operation (rule R117). -/

namespace Sys2Proof.RegisterAccess

open Sys2Proof.Machine Sys2Proof.Safety Sys2Proof.Laws.Encoding

theorem decode_pack_wrreg (a : RegAddr) (d : Byte) : decode (packRequest 0b000#3 a d) = some (.wrreg a d) := by
  simp [decode, opField_pack, addrField_pack, dataField_pack]

theorem decode_pack_rdreg (a : RegAddr) (d : Byte) : decode (packRequest 0b001#3 a d) = some (.rdreg a) := by
  simp [decode, opField_pack, addrField_pack]

/-- Settles O16: the rows of one write transaction, each completed. -/
theorem writeRegisterRuns : Obligations.WriteRegisterRuns := by
  refine fun a d s => ⟨decode_pack_wrreg a d, ?_⟩
  cases h0 : statusAt s 0
  · obtain ⟨u, hu, ran⟩ := s.runTxn_ran_write a d h0
    cases h1 : statusAt s 1 <;> rw [h1] at hu ran
    · exact ⟨_, exec_wrreg_of_ok hu, nofun, nofun, fun _ _ => ran.complete _⟩
    · exact ⟨_, exec_wrreg_of_fail hu, nofun, fun _ _ => ran.complete _, nofun⟩
  · obtain ⟨u, hu, ran⟩ := s.runTxn_ran_command_fail (Txn.write a d) h0
    exact ⟨_, exec_wrreg_of_fail hu, fun _ => ran.complete _, nofun, nofun⟩

/-- Settles O17: the rows of one read transaction, each completed. -/
theorem readRegisterRuns : Obligations.ReadRegisterRuns := by
  refine fun a s => ⟨decode_pack_rdreg a, ?_⟩
  have one_byte : (Txn.read a).kind = .r1 ∧ RxLen.one = .one ∨ (Txn.read a).kind = .r9 ∧ RxLen.one = .nine :=
    .inl ⟨rfl, rfl⟩
  cases h0 : statusAt s 0
  · cases h1 : statusAt s 1
    · obtain ⟨u, hu, ran⟩ := s.runTxn_ran_read_ok (Txn.read a) .one h0 h1 one_byte
      exact ⟨_, exec_rdreg_of_some (State.memRead_of_ok hu ran.rx), nofun, nofun, fun _ _ => ran.complete _⟩
    · obtain ⟨u, hu, ran⟩ := s.runTxn_ran_read_fail (Txn.read a) .one h0 h1 one_byte
      exact ⟨_, exec_rdreg_of_none (State.memRead_of_fail hu), nofun, fun _ _ => ran.complete _, nofun⟩
  · obtain ⟨u, hu, ran⟩ := s.runTxn_ran_command_fail (Txn.read a) h0
    exact ⟨_, exec_rdreg_of_none (State.memRead_of_fail hu), fun _ => ran.complete _, nofun, nofun⟩

/-- Settles O29: each transaction records its calls beside its events, and a completion makes no call. -/
theorem everyCallCarriesTheHandle : Obligations.EveryCallCarriesTheHandle := by
  intro i s
  obtain ⟨u, r, h, _, ev, _, ran⟩ := exec_completes i s
  have whole := ran.complete r
  exact ⟨_, ev, h, whole.trace, whole.calls⟩

end Sys2Proof.RegisterAccess
end

section
/-! PROOFS. Noninterference (rule R119): two runs from states with the same inputs proceed in lockstep, transfer by
transfer, transaction by transaction. -/

namespace Sys2Proof.Machine

open Sys2Proof.Safety

/-- Inside a transaction two more fields count beside the inputs: the command the ideal device took (rule R62) and the
receive buffer, which the operation reads (rule R26). Select and a cleared buffer make both equal. -/
structure BusAlike (s s' : State) : Prop where
  inputs : SameInputs s s'
  devCmd : s.devCmd = s'.devCmd
  rx : s.rx = s'.rx

/-- Two runs, one from `s` and one from `s'`, returned the same value, caused the same events and ended alike. -/
structure SameRun {α : Type} (s s' : State) (r r' : α × State) : Prop where
  value : r.1 = r'.1
  alike : BusAlike r.2 r'.2
  events : ∃ ev, r.2.trace = s.trace ++ ev ∧ r'.2.trace = s'.trace ++ ev

theorem SameRun.trans {α β : Type} {s s' : State} {r r' : α × State} {q q' : β × State} (h : SameRun s s' r r')
    (h' : SameRun r.2 r'.2 q q') : SameRun s s' q q' := by
  obtain ⟨ev, e, e'⟩ := h.events
  obtain ⟨ev₂, e₂, e₂'⟩ := h'.events
  exact ⟨h'.value, h'.alike, ev ++ ev₂, by rw [e₂, e, List.append_assoc], by rw [e₂', e', List.append_assoc]⟩

/-- The value returned may be replaced by any other that both runs agree on. -/
theorem SameRun.withValue {α β : Type} {s s' : State} {r r' : α × State} (h : SameRun s s' r r') (b : β) :
    SameRun s s' (b, r.2) (b, r'.2) := ⟨rfl, h.alike, h.events⟩

/-- Equal responses complete two alike runs alike. -/
theorem SameRun.complete {α : Type} {s s' : State} {r r' : α × State} (h : SameRun s s' r r') (p : Response) :
    SameRun s s' (p, r.2.complete p) (p, r'.2.complete p) :=
  ⟨rfl, ⟨h.alike.inputs, h.alike.devCmd, h.alike.rx⟩, h.events⟩

/-- The two outcomes of a same run, with the one value named. -/
theorem SameRun.outcomes {α : Type} {s s' : State} {r r' : α × State} (h : SameRun s s' r r') :
    ∃ a u u', r = (a, u) ∧ r' = (a, u') ∧ SameRun s s' (a, u) (a, u') :=
  ⟨r.1, r.2, r'.2, rfl, Prod.ext h.value.symm rfl, h.withValue _⟩

theorem BusAlike.answerAt {s s' : State} (h : BusAlike s s') (k : Nat) : s.answerAt k = s'.answerAt k := by
  obtain ⟨-, ha, hd, hm, -⟩ := h.inputs
  exact State.answerAt_congr ha hd hm k

theorem BusAlike.dropAnswer {s s' : State} (h : BusAlike s s') : BusAlike s.dropAnswer s'.dropAnswer := by
  obtain ⟨⟨hp, ha, hd, hm, hv⟩, hc, hr⟩ := h
  refine ⟨⟨by simpa, by simp [ha], ?_, by simpa, by simpa⟩, by simpa, by simpa⟩
  cases ho : s.devMode
  · rw [s.dropAnswer_draws_oracle ho, s'.dropAnswer_draws_oracle (hm ▸ ho), hd, ha]
  · rw [s.dropAnswer_draws_ideal ho, s'.dropAnswer_draws_ideal (hm ▸ ho), hd]

theorem BusAlike.deviceTx {s s' : State} (h : BusAlike s s') (b : Byte) (st : Status) :
    BusAlike (s.deviceTx b st) (s'.deviceTx b st) := by
  have same := h
  obtain ⟨⟨hp, ha, hd, hm, hv⟩, hc, hr⟩ := h
  have scrambled : ∀ a, BusAlike (s.scramble a) (s'.scramble a) := fun a =>
    ⟨⟨hp, ha, by simp [hd], hm, by simp [hd, hv]⟩, hc, hr⟩
  unfold State.deviceTx
  rw [hm, hc]
  split
  · exact same
  · split
    · exact ⟨⟨hp, ha, hd, rfl, hv⟩, rfl, hr⟩
    · split
      · exact scrambled _
      · exact same
    · split
      · exact ⟨⟨hp, ha, hd, rfl, by simp [hv]⟩, rfl, hr⟩
      · exact same
    · split
      · exact scrambled _
      · exact same

theorem BusAlike.deviceBytes {s s' : State} (h : BusAlike s s') (bs : Nine Byte) :
    s.deviceBytes bs = s'.deviceBytes bs := by
  obtain ⟨⟨-, -, -, hm, hv⟩, hc, -⟩ := h
  simp only [State.deviceBytes, hm, hv, hc]

theorem BusAlike.putRx {s s' : State} (h : BusAlike s s') (n : RxLen) (bs : Nine Byte) :
    BusAlike (s.putRx n bs) (s'.putRx n bs) := by
  obtain ⟨⟨hp, ha, hd, hm, hv⟩, hc, hr⟩ := h
  cases n
  · exact ⟨⟨hp, ha, hd, hm, hv⟩, hc, by simp [State.putRx, hr]⟩
  · exact ⟨⟨hp, ha, hd, hm, hv⟩, hc, rfl⟩

theorem BusAlike.logTx {s s' : State} (h : BusAlike s s') (b : Byte) (st : Status) :
    BusAlike (s.logTx b st) (s'.logTx b st) := ⟨h.inputs, h.devCmd, h.rx⟩

theorem BusAlike.logRx {s s' : State} (h : BusAlike s s') (n : RxLen) (st : Status) (bs : Option (List Byte)) :
    BusAlike (s.logRx n st bs) (s'.logRx n st bs) := ⟨h.inputs, h.devCmd, h.rx⟩

theorem BusAlike.transmit {s s' : State} (h : BusAlike s s') (b : Byte) :
    SameRun s s' (s.transmit b) (s'.transmit b) := by
  unfold State.transmit
  rw [h.answerAt 0]
  exact ⟨rfl, (h.dropAnswer.deviceTx b _).logTx b _, [.tx [b] (s'.answerAt 0).status], by simp, by simp⟩

theorem BusAlike.receive {s s' : State} (h : BusAlike s s') (n : RxLen) :
    SameRun s s' (s.receive n) (s'.receive n) := by
  have ha := h.answerAt 0
  cases hs : (s'.answerAt 0).status
  · rw [s.receive_ok n (by rw [ha, hs]), s'.receive_ok n hs, ha, h.deviceBytes]
    exact ⟨rfl, (h.dropAnswer.putRx n _).logRx n _ _,
      [.rx n.toNat .ok (some (n.take (s'.deviceBytes (s'.answerAt 0).bytes)))], by simp, by simp⟩
  · rw [s.receive_fail n (by rw [ha, hs]), s'.receive_fail n hs]
    exact ⟨rfl, h.dropAnswer.logRx n _ _, [.rx n.toNat .fail none], by simp, by simp⟩

theorem BusAlike.payload {s s' : State} (h : BusAlike s s') (x : Txn) :
    SameRun s s' (s.payload x) (s'.payload x) := by
  unfold State.payload
  cases x.kind
  · exact h.transmit _
  · exact h.receive _
  · exact h.receive _

theorem BusAlike.transfers {s s' : State} (h : BusAlike s s') (x : Txn) :
    SameRun s s' (s.transfers x) (s'.transfers x) := by
  have commanded : SameRun s s' (s.command x) (s'.command x) := h.transmit _
  obtain ⟨st, u, u', e, e', ran⟩ := commanded.outcomes
  simp only [State.transfers, e, e']
  cases st
  · exact ran.trans (ran.alike.payload x)
  · exact ran

end Sys2Proof.Machine

namespace Sys2Proof.Safety

open Sys2Proof.Machine

/-- A transaction clears the buffer and asserts select, so nothing an earlier one left remains (rules R26, R111). -/
theorem SameInputs.runTxn {s s' : State} (h : SameInputs s s') (x : Txn) :
    SameRun s s' (s.runTxn x) (s'.runTxn x) := by
  have selected : SameRun s s' ((), s.clearRx.selAssert) ((), s'.clearRx.selAssert) :=
    ⟨rfl, ⟨h, rfl, rfl⟩, _, rfl, rfl⟩
  have ran := selected.trans (selected.alike.transfers x)
  exact ran.trans ⟨ran.value, ⟨ran.alike.inputs, rfl, ran.alike.rx⟩, _, rfl, rfl⟩

theorem SameInputs.memWrite {s s' : State} (h : SameInputs s s') (a : RegAddr) (v : Byte) :
    SameRun s s' (s.memWrite a v) (s'.memWrite a v) := h.runTxn _

theorem SameInputs.memRead {s s' : State} (h : SameInputs s s') (a : RegAddr) :
    SameRun s s' (s.memRead a) (s'.memRead a) := by
  obtain ⟨st, u, u', e, e', ran⟩ := (h.runTxn (Txn.read a)).outcomes
  simp only [State.memRead, e, e']
  cases st
  · exact ⟨congrArg Nine.b0 ran.alike.rx, ran.alike, ran.events⟩
  · exact ran.withValue none

theorem SameInputs.memReadBurst {s s' : State} (h : SameInputs s s') :
    SameRun s s' s.memReadBurst s'.memReadBurst := by
  have hp : s.params = s'.params := h.1
  obtain ⟨st, u, u', e, e', ran⟩ := (h.runTxn (Txn.burst s.params)).outcomes
  simp only [State.memReadBurst, ← hp, e, e']
  cases st
  · exact ⟨congrArg fullBuffer ran.alike.rx, ran.alike, ran.events⟩
  · exact ran.withValue none

/-- The two runs of an operation that ended in `t` and `t'`: the value they agree on is the response. -/
abbrev SameOperation (s s' t t' : State) : Prop := SameRun s s' (t.resp, t) (t'.resp, t')

theorem SameInputs.setVerify {s s' : State} (h : SameInputs s s') (a : RegAddr) (v : Byte) :
    SameOperation s s' (s.setVerify a v) (s'.setVerify a v) := by
  obtain ⟨st, u, u', e, e', wrote⟩ := (h.memWrite a v).outcomes
  cases st
  · obtain ⟨b, w, w', f, f', read⟩ := (wrote.trans (wrote.alike.inputs.memRead a)).outcomes
    cases b
    · rw [State.setVerify_of_read_fail e f, State.setVerify_of_read_fail e' f']
      exact read.complete _
    · rw [State.setVerify_of_read_ok e f, State.setVerify_of_read_ok e' f']
      exact read.complete _
  · rw [State.setVerify_of_write_fail e, State.setVerify_of_write_fail e']
    exact wrote.complete _

/-- Two states with the same inputs run an operation alike. -/
theorem SameInputs.exec {s s' : State} (h : SameInputs s s') (i : Instr) :
    ∃ t t', exec i s = .next t ∧ exec i s' = .next t' ∧ SameOperation s s' t t' := by
  have hp : s.params = s'.params := h.1
  cases i with
  | wrreg a d =>
    obtain ⟨st, u, u', e, e', ran⟩ := (h.memWrite a d).outcomes
    cases st
    · exact ⟨_, _, exec_wrreg_of_ok e, exec_wrreg_of_ok e', ran.complete _⟩
    · exact ⟨_, _, exec_wrreg_of_fail e, exec_wrreg_of_fail e', ran.complete _⟩
  | rdreg a =>
    obtain ⟨b, u, u', e, e', ran⟩ := (h.memRead a).outcomes
    cases b
    · exact ⟨_, _, exec_rdreg_of_none e, exec_rdreg_of_none e', ran.complete _⟩
    · exact ⟨_, _, exec_rdreg_of_some e, exec_rdreg_of_some e', ran.complete _⟩
  | setodr d => exact ⟨_, _, rfl, rfl, hp ▸ h.setVerify _ _⟩
  | setrng d => exact ⟨_, _, rfl, rfl, hp ▸ h.setVerify _ _⟩
  | setmeas => exact ⟨_, _, rfl, rfl, hp ▸ h.setVerify _ _⟩
  | chkid =>
    obtain ⟨b, u, u', e, e', ran⟩ := (h.memRead s.params.idAddr).outcomes
    rw [hp] at e'
    have hu : u.params = u'.params := ran.alike.inputs.1
    cases b
    · exact ⟨_, _, exec_chkid_of_none e, exec_chkid_of_none e', ran.complete _⟩
    · exact ⟨_, _, exec_chkid_of_some e, exec_chkid_of_some e', hu ▸ ran.complete _⟩
  | rdxyz =>
    obtain ⟨bs, u, u', e, e', ran⟩ := h.memReadBurst.outcomes
    have hu : u.params = u'.params := ran.alike.inputs.1
    cases bs
    · exact ⟨_, _, exec_rdxyz_of_none e, exec_rdxyz_of_none e', ran.complete _⟩
    · exact ⟨_, _, exec_rdxyz_of_some e, exec_rdxyz_of_some e', hu ▸ ran.complete _⟩

end Sys2Proof.Safety

namespace Sys2Proof.RegisterAccess

open Sys2Proof.Machine Sys2Proof.Safety

/-- Settles O31: the two runs proceed in lockstep, and an operation answers one state. -/
theorem operationsForgetTheirPast : Obligations.OperationsForgetTheirPast := by
  intro i s s' t h ht
  obtain ⟨t₁, t', ht₁, ht', ran⟩ := h.exec i
  obtain rfl : t₁ = t := Host.Outcome.next.inj (ht₁.symm.trans ht)
  obtain ⟨ev, e, e'⟩ := ran.events
  exact ⟨t', ev, ht', e, e', ran.value.symm, ran.alike.inputs⟩

end Sys2Proof.RegisterAccess
end

section
/-! PROOFS. SETODR, SETRNG and SETMEAS (41_configuration.md): `SetVerify` by the transport's answers (rules R140, R146),
and the byte it reads back. -/

namespace Sys2Proof.Machine

open Sys2Proof.Safety

/-- The value transmit of a write the ideal device has taken the command of (rule R62). -/
theorem State.commanded_payload_write_dev (s : State) (a : RegAddr) (v : Byte) (hm : s.devMode = .ideal)
    (h1 : statusAt s 1 = .ok) :
    ((s.commanded (Txn.write a v)).payload (Txn.write a v)).2.dev = cellsWrite s.dev a.toNat v := by
  have ok : ((s.commanded (Txn.write a v)).answerAt 0).status = .ok :=
    (congrArg Answer.status (s.commanded_answerAt _ 0)).trans h1
  have mode : (s.commanded (Txn.write a v)).dropAnswer.devMode = .ideal := by simp [State.commanded, hm]
  have taken : (s.commanded (Txn.write a v)).dropAnswer.devCmd = some (commandByte .write a) :=
    (State.dropAnswer_devCmd _).trans (s.commanded_devCmd _ hm)
  change ((s.commanded (Txn.write a v)).transmit v).2.dev = _
  rw [State.transmit, State.logTx_dev, ok, State.deviceTx_value _ _ _ mode taken (commandDir_commandByte _ _)]
  simp only [State.dropAnswer_dev, State.commanded_dev, commandAddr_commandByte]

/-- A write in which no transfer failed is stored by the ideal device (rule R62). -/
theorem State.runTxn_write_dev (s : State) (a : RegAddr) (v : Byte) (hm : s.devMode = .ideal)
    (h0 : statusAt s 0 = .ok) (h1 : statusAt s 1 = .ok) :
    (s.runTxn (Txn.write a v)).2.dev = cellsWrite s.dev a.toNat v := by
  rw [s.runTxn_command_ok (Txn.write a v) h0, State.selDeassert_dev]
  exact s.commanded_payload_write_dev a v hm h1

/-- After a transaction that used `n` answers, the transfers to come are those from the `n`-th on (rule R205). -/
theorem TxnRan.statusAt_eq {s u : State} {n : Nat} {ev : List Event} {rx : Nine (Option Byte)} (h : TxnRan s u n ev rx)
    (k : Nat) : statusAt u k = statusAt s (k + n) :=
  congrArg Answer.status (h.answerAt k)

/-- With an oracle on the bus the byte delivered is the transport's draw (rule R35). -/
theorem deliveredAt_oracle {s : State} (hm : s.devMode = .oracle) (k : Nat) (a : RegAddr) :
    deliveredAt s k a = (s.answerAt k).bytes := by
  simp only [deliveredAt, hm]

/-- The ideal device delivers its registers from the commanded address upward (rule R62). -/
theorem deliveredAt_ideal {s : State} (hm : s.devMode = .ideal) (k : Nat) (a : RegAddr) :
    deliveredAt s k a = cellsNine s.dev a.toNat := by
  simp only [deliveredAt, hm]

/-- The ideal device delivers the byte just written (rule R62). -/
theorem deliveredAt_of_written {s u : State} {a : RegAddr} {v : Byte} (hm : u.devMode = .ideal)
    (wf : cellsWf s.dev = true) (hu : u.dev = cellsWrite s.dev a.toNat v) (k : Nat) :
    (deliveredAt u k a).b0 = v := by
  rw [deliveredAt_ideal hm, hu]
  exact cellsRead_write_self wf a.toNat v

/-- The rows of `SetVerify`: a transaction that fails ends it, and a read that succeeds is compared (rules R140, R146). -/
theorem State.setVerify_runs (s : State) (a : RegAddr) (v : Byte) :
    SetVerifyRuns s (.next (s.setVerify a v)) a v := by
  refine ⟨_, rfl, ?_⟩
  cases h0 : statusAt s 0
  case fail =>
    obtain ⟨u, hu, wrote⟩ := s.runTxn_ran_command_fail (Txn.write a v) h0
    rw [State.setVerify_of_write_fail hu]
    exact ⟨fun _ => wrote.complete _, nofun, nofun, nofun, nofun⟩
  obtain ⟨u, hu, wrote⟩ := s.runTxn_ran_write a v h0
  cases h1 : statusAt s 1 <;> rw [h1] at hu wrote
  case fail =>
    rw [State.setVerify_of_write_fail hu]
    exact ⟨nofun, fun _ _ => wrote.complete _, nofun, nofun, nofun⟩
  have one_byte : (Txn.read a).kind = .r1 ∧ RxLen.one = .one ∨ (Txn.read a).kind = .r9 ∧ RxLen.one = .nine :=
    .inl ⟨rfl, rfl⟩
  have u0 := wrote.statusAt_eq 0
  have u1 := wrote.statusAt_eq 1
  cases h2 : statusAt s 2 <;> rw [h2] at u0
  case fail =>
    obtain ⟨w, hw, read⟩ := u.runTxn_ran_command_fail (Txn.read a) u0
    rw [State.setVerify_of_read_fail hu (State.memRead_of_fail hw)]
    exact ⟨nofun, nofun, fun _ _ _ => (wrote.trans read).complete _, nofun, nofun⟩
  cases h3 : statusAt s 3 <;> rw [h3] at u1
  case fail =>
    obtain ⟨w, hw, read⟩ := u.runTxn_ran_read_fail (Txn.read a) .one u0 u1 one_byte
    rw [State.setVerify_of_read_fail hu (State.memRead_of_fail hw)]
    exact ⟨nofun, nofun, nofun, fun _ _ _ _ => (wrote.trans read).complete _, nofun⟩
  obtain ⟨w, hw, read⟩ := u.runTxn_ran_read_ok (Txn.read a) .one u0 u1 one_byte
  rw [State.setVerify_of_read_ok hu (State.memRead_of_ok hw read.rx)]
  refine ⟨nofun, nofun, nofun, nofun, fun _ _ _ _ => ⟨(deliveredAt u 1 a).b0, ?_, ?_, (wrote.trans read).complete _⟩⟩
  · intro hm
    rw [deliveredAt_oracle (wrote.devMode.trans hm), wrote.answerAt]
  · intro hm wf
    have stored := s.runTxn_write_dev a v hm h0 h1
    rw [hu] at stored
    exact deliveredAt_of_written (wrote.devMode.trans hm) wf stored 1

end Sys2Proof.Machine

namespace Sys2Proof.Configuration

open Sys2Proof.Machine Sys2Proof.Safety Sys2Proof.Laws.Encoding

theorem decode_pack_setodr (a : RegAddr) (d : Byte) : decode (packRequest 0b010#3 a d) = some (.setodr d) := by
  simp [decode, opField_pack, dataField_pack]

theorem decode_pack_setrng (a : RegAddr) (d : Byte) : decode (packRequest 0b011#3 a d) = some (.setrng d) := by
  simp [decode, opField_pack, dataField_pack]

theorem decode_pack_setmeas (a : RegAddr) (d : Byte) : decode (packRequest 0b100#3 a d) = some .setmeas := by
  simp [decode, opField_pack]

/-- Settles O18: SETODR is `SetVerify` at `P.ODR_ADDR` (rule R142). -/
theorem setDataRateRuns : Obligations.SetDataRateRuns := fun d s =>
  ⟨fun a => decode_pack_setodr a d, s.setVerify_runs s.params.odrAddr d⟩

/-- Settles O19: SETRNG is `SetVerify` at `P.RANGE_ADDR` (rule R143). -/
theorem setRangeRuns : Obligations.SetRangeRuns := fun d s =>
  ⟨fun a => decode_pack_setrng a d, s.setVerify_runs s.params.rangeAddr d⟩

/-- Settles O20: SETMEAS is `SetVerify` at `P.PWR_ADDR` with `P.MEASURE_ENC` (rule R144). -/
theorem setMeasureRuns : Obligations.SetMeasureRuns := fun s =>
  ⟨decode_pack_setmeas, s.setVerify_runs s.params.pwrAddr s.params.measureEnc⟩

end Sys2Proof.Configuration
end

section
/-! PROOFS. CHKID by the transport's answers (rules R160, R161): one read transaction, and the byte compared. -/

namespace Sys2Proof.Identity

open Sys2Proof.Machine Sys2Proof.Safety Sys2Proof.Laws.Encoding

theorem decode_pack_chkid (a : RegAddr) (d : Byte) : decode (packRequest 0b101#3 a d) = some .chkid := by
  simp [decode, opField_pack]

/-- Settles O21: the rows of one read transaction, and a failed read completes as a wrong byte does. -/
theorem checkIdentityRuns : Obligations.CheckIdentityRuns := by
  refine fun s => ⟨decode_pack_chkid, ?_⟩
  have one_byte : (Txn.read s.params.idAddr).kind = .r1 ∧ RxLen.one = .one ∨
      (Txn.read s.params.idAddr).kind = .r9 ∧ RxLen.one = .nine := .inl ⟨rfl, rfl⟩
  cases h0 : statusAt s 0
  · cases h1 : statusAt s 1
    · obtain ⟨u, hu, ran⟩ := s.runTxn_ran_read_ok (Txn.read s.params.idAddr) .one h0 h1 one_byte
      have answered := exec_chkid_of_some (State.memRead_of_ok hu ran.rx)
      rw [ran.params] at answered
      exact ⟨_, answered, nofun, nofun, fun _ _ => ran.complete _⟩
    · obtain ⟨u, hu, ran⟩ := s.runTxn_ran_read_fail (Txn.read s.params.idAddr) .one h0 h1 one_byte
      exact ⟨_, exec_chkid_of_none (State.memRead_of_fail hu), nofun, fun _ _ => ran.complete _, nofun⟩
  · obtain ⟨u, hu, ran⟩ := s.runTxn_ran_command_fail (Txn.read s.params.idAddr) h0
    exact ⟨_, exec_chkid_of_none (State.memRead_of_fail hu), fun _ => ran.complete _, nofun, nofun⟩

/-- Settles O22: the rows of `checkIdentityRuns` cover every pattern of answers, and each names its result. -/
theorem checkIdentityIff : Obligations.CheckIdentityIff := by
  intro s
  obtain ⟨-, t, ht, command_failed, receive_failed, received⟩ := checkIdentityRuns s
  refine ⟨t, ht, ?_⟩
  cases h0 : statusAt s 0
  · cases h1 : statusAt s 1
    · rw [(received h0 h1).resp]
      by_cases hb : (deliveredAt s 1 s.params.idAddr).b0 = s.params.idValue <;> simp [Response.ofResult, hb]
    · simp [(receive_failed h0 h1).resp, Response.ofResult]
  · simp [(command_failed h0).resp, Response.ofResult]

end Sys2Proof.Identity
end

section
/-! PROOFS. RDXYZ by the transport's answers (rules R171, R172): one burst transaction, decoded only when it succeeded;
and the two branches of the sign extension (rule R176). -/

namespace Sys2Proof.Burst

open Sys2Proof.Machine Sys2Proof.Safety Sys2Proof.Laws.Encoding

theorem decode_pack_rdxyz (a : RegAddr) (d : Byte) : decode (packRequest 0b110#3 a d) = some .rdxyz := by
  simp [decode, opField_pack]

/-- Settles O23: the rows of one burst transaction, and a failed burst leaves no bytes to decode. -/
theorem burstRuns : Obligations.BurstRuns := by
  refine fun s => ⟨decode_pack_rdxyz, ?_⟩
  have nine_bytes : (Txn.burst s.params).kind = .r1 ∧ RxLen.nine = .one ∨
      (Txn.burst s.params).kind = .r9 ∧ RxLen.nine = .nine := .inr ⟨rfl, rfl⟩
  cases h0 : statusAt s 0
  · cases h1 : statusAt s 1
    · obtain ⟨u, hu, ran⟩ := s.runTxn_ran_read_ok (Txn.burst s.params) .nine h0 h1 nine_bytes
      have answered := exec_rdxyz_of_some (State.memReadBurst_of_ok hu ran.rx)
      rw [ran.params] at answered
      exact ⟨_, answered, nofun, nofun, fun _ _ => ran.complete _⟩
    · obtain ⟨u, hu, ran⟩ := s.runTxn_ran_read_fail (Txn.burst s.params) .nine h0 h1 nine_bytes
      exact ⟨_, exec_rdxyz_of_none (State.memReadBurst_of_fail hu), nofun, fun _ _ => ran.complete _, nofun⟩
  · obtain ⟨u, hu, ran⟩ := s.runTxn_ran_command_fail (Txn.burst s.params) h0
    exact ⟨_, exec_rdxyz_of_none (State.memReadBurst_of_fail hu), fun _ => ran.complete _, nofun, nofun⟩

/-- A sample with a clear sign bit is its own extension (rule R176). -/
theorem sx20_of_sign_clear {u : Word32} (h : u.getLsbD 19 = false) : sx20 u = u :=
  if_neg (ne_true_of_eq_false h)

/-- A sample with a set sign bit is its magnitude bits less the bias (rule R176). -/
theorem sx20_of_sign_set {u : Word32} (h : u.getLsbD 19 = true) :
    sx20 u = (u &&& Config.signMask) - Config.signBias := if_pos h

/-- Settles O45: the ends of the half with a clear sign bit, then those of the half with a set one. -/
theorem signExtensionBoundaryTable : Obligations.SignExtensionBoundaryTable := by
  refine ⟨?_, ?_, ?_, ?_⟩
  · rw [sx20_of_sign_clear (by decide)]; decide
  · rw [sx20_of_sign_clear (by decide)]; decide
  · rw [sx20_of_sign_set (by decide)]; decide
  · rw [sx20_of_sign_set (by decide)]; decide

end Sys2Proof.Burst
end

section
/-! PROOFS. Results and their causes (rules R200, R201, R202): a failed transfer decides the result of an operation, and
when none failed the byte it compares, if it compares one, decides; no step writes GenericError. -/

namespace Sys2Proof.Machine

open Sys2Proof.Safety

@[simp] theorem Response.ofResult_result (r : Result) : (Response.ofResult r).result = some r := rfl

@[simp] theorem Response.ofByte_result (b : Byte) : (Response.ofByte b).result = some .success := rfl

@[simp] theorem Response.ofAxes_result (x y z : Word32) : (Response.ofAxes x y z).result = some .success := rfl

/-! The result of an operation with a failed transfer (rule R201). -/

@[simp] theorem failResult_chkid : failResult .chkid = .identityMismatch := rfl

theorem failResult_of_ne_chkid {i : Instr} (h : i ≠ .chkid) : failResult i = .busError := by
  cases i
  case chkid => exact absurd rfl h
  all_goals rfl

theorem failResult_ne_genericError (i : Instr) : failResult i ≠ .genericError := by cases i <;> nofun

theorem failResult_ne_readbackMismatch (i : Instr) : failResult i ≠ .readbackMismatch := by cases i <;> nofun

theorem respShape_ofResult_failResult (i : Instr) : respShape (Response.ofResult (failResult i)) = true := by
  cases i <;> rfl

/-! A row of rule R116 gives no GenericError (rule R202). -/

/-- The shapes of rule R23 hold no GenericError. -/
theorem result_ne_genericError_of_respShape {r : Response} (h : respShape r = true) :
    r.result ≠ some .genericError := by
  intro hr
  simp [respShape, hr] at h

/-- A row of rule R116 leaves the response alone, or completes with a response of a shape rule R23 allows. -/
theorem busyStep_resp {s t : State} {k : TxnIndex} {p : SubPhase} (h : busyStep k p s = .next t) :
    t.resp = s.resp ∨ respShape t.resp = true := by
  obtain ⟨_, i, x, -, -, -, ⟨-, rfl⟩ | ⟨-, rfl⟩ | ⟨-, rfl⟩ | ⟨-, -, -, rfl⟩ | ⟨-, eval⟩ | ⟨-, rfl⟩⟩ := busyStep_next h
  · exact .inl rfl
  · rw [State.afterTransfer_eq]
    exact .inl (s.command_frame x).resp
  · rw [State.afterTransfer_eq]
    exact .inl (s.payload_frame x).resp
  · exact .inl rfl
  · obtain ⟨r, rfl, shape, -⟩ := evalOp_next eval
    exact .inr shape
  · exact .inr (respShape_ofResult_failResult i)

theorem busyStep_keeps_no_genericError {s t : State} {k : TxnIndex} {p : SubPhase}
    (hs : s.resp.result ≠ some .genericError) (h : busyStep k p s = .next t) :
    t.resp.result ≠ some .genericError := by
  rcases busyStep_resp h with same | shape
  · rwa [same]
  · exact result_ne_genericError_of_respShape shape

end Sys2Proof.Machine

namespace Sys2Proof.Exceptions

open Sys2Proof.Machine Sys2Proof.Safety

/-! The four ends of an operation (rules R201, R204). -/

/-- How a run of `i` from `s` to `t` ended: the cause that occurred, and the response it gave. -/
inductive Ended (i : Instr) (s t : State) : Prop
  | transferFailed (k : Nat) (hk : k < transferCount i) (failed : statusAt s k = .fail)
      (resp : t.resp = Response.ofResult (failResult i))
  | readbackDiffers (four : transferCount i = 4) (ok : ∀ k, k < 4 → statusAt s k = .ok)
      (b : Byte) (read : t.rx.b0 = some b) (ne : b ≠ writtenValue s.params i)
      (resp : t.resp = Response.ofResult .readbackMismatch)
  | identityDiffers (chkid : i = .chkid) (ok : ∀ k, k < 2 → statusAt s k = .ok)
      (ne : (deliveredAt s 1 s.params.idAddr).b0 ≠ s.params.idValue)
      (resp : t.resp = Response.ofResult .identityMismatch)
  | succeeded (ok : ∀ k, k < transferCount i → statusAt s k = .ok)
      (readback : transferCount i = 4 → t.rx.b0 = some (writtenValue s.params i))
      (identity : i = .chkid → (deliveredAt s 1 s.params.idAddr).b0 = s.params.idValue)
      (result : t.resp.result = some .success)

section ends
variable {i : Instr} {s t : State}

theorem ok_below_two (h0 : statusAt s 0 = .ok) (h1 : statusAt s 1 = .ok) : ∀ k, k < 2 → statusAt s k = .ok
  | 0, _ => h0
  | 1, _ => h1

/-- A single transaction ends at its command, at its payload, or with both transfers `OK`. -/
theorem Ended.of_two_transfers (two : transferCount i = 2)
    (command_failed : statusAt s 0 = .fail → t.resp = Response.ofResult (failResult i))
    (payload_failed : statusAt s 0 = .ok → statusAt s 1 = .fail → t.resp = Response.ofResult (failResult i))
    (ran : statusAt s 0 = .ok → statusAt s 1 = .ok → Ended i s t) : Ended i s t := by
  cases h0 : statusAt s 0
  · cases h1 : statusAt s 1
    · exact ran h0 h1
    · exact .transferFailed 1 (by omega) h1 (payload_failed h0 h1)
  · exact .transferFailed 0 (by omega) h0 (command_failed h0)

/-- An operation of one transaction that is not CHKID compares nothing. -/
theorem Ended.of_no_comparison (two : transferCount i = 2) (ne : i ≠ .chkid)
    (command_failed : statusAt s 0 = .fail → t.resp = Response.ofResult (failResult i))
    (payload_failed : statusAt s 0 = .ok → statusAt s 1 = .fail → t.resp = Response.ofResult (failResult i))
    (ran : statusAt s 0 = .ok → statusAt s 1 = .ok → t.resp.result = some .success) : Ended i s t :=
  .of_two_transfers two command_failed payload_failed fun h0 h1 =>
    .succeeded (two ▸ ok_below_two h0 h1) (fun four => by omega) (fun h => absurd h ne) (ran h0 h1)

/-- The rows of `SetVerify`, for the three operations that are one (rules R142, R143, R144). -/
theorem Ended.of_setVerifyRuns {o : Host.Outcome State Fault Refusal} {a : RegAddr} (four : transferCount i = 4)
    (runs : SetVerifyRuns s o a (writtenValue s.params i)) : ∃ t, o = .next t ∧ Ended i s t := by
  obtain ⟨t, ht, failed₀, failed₁, failed₂, failed₃, ran⟩ := runs
  refine ⟨t, ht, ?_⟩
  have not_chkid : failResult i = .busError := failResult_of_ne_chkid (by rintro rfl; cases four)
  cases h0 : statusAt s 0
  case fail => exact .transferFailed 0 (by omega) h0 (not_chkid ▸ (failed₀ h0).resp)
  cases h1 : statusAt s 1
  case fail => exact .transferFailed 1 (by omega) h1 (not_chkid ▸ (failed₁ h0 h1).resp)
  cases h2 : statusAt s 2
  case fail => exact .transferFailed 2 (by omega) h2 (not_chkid ▸ (failed₂ h0 h1 h2).resp)
  cases h3 : statusAt s 3
  case fail => exact .transferFailed 3 (by omega) h3 (not_chkid ▸ (failed₃ h0 h1 h2 h3).resp)
  have ok : ∀ k, k < 4 → statusAt s k = .ok := by intro k hk; interval_cases k <;> assumption
  obtain ⟨b, -, -, whole⟩ := ran h0 h1 h2 h3
  have read : t.rx.b0 = some b := by rw [whole.rx]; rfl
  by_cases hb : b = writtenValue s.params i
  · exact .succeeded (four ▸ ok) (fun _ => hb ▸ read) (by rintro rfl; cases four) (by simp [whole.resp, hb])
  · exact .readbackDiffers four ok b read hb (by simp [whole.resp, hb])

/-- Every operation ends in one of the four ways. -/
theorem exec_ended (i : Instr) (s : State) : ∃ t, exec i s = .next t ∧ Ended i s t := by
  cases i with
  | wrreg a d =>
    obtain ⟨-, t, ht, command_failed, payload_failed, ran⟩ := RegisterAccess.writeRegisterRuns a d s
    exact ⟨t, ht, .of_no_comparison rfl nofun (fun h0 => (command_failed h0).resp)
      (fun h0 h1 => (payload_failed h0 h1).resp) fun h0 h1 => by simp [(ran h0 h1).resp]⟩
  | rdreg a =>
    obtain ⟨-, t, ht, command_failed, payload_failed, ran⟩ := RegisterAccess.readRegisterRuns a s
    exact ⟨t, ht, .of_no_comparison rfl nofun (fun h0 => (command_failed h0).resp)
      (fun h0 h1 => (payload_failed h0 h1).resp) fun h0 h1 => by simp [(ran h0 h1).resp]⟩
  | setodr d => exact Ended.of_setVerifyRuns rfl (Configuration.setDataRateRuns d s).2
  | setrng d => exact Ended.of_setVerifyRuns rfl (Configuration.setRangeRuns d s).2
  | setmeas => exact Ended.of_setVerifyRuns rfl (Configuration.setMeasureRuns s).2
  | chkid =>
    obtain ⟨-, t, ht, command_failed, payload_failed, ran⟩ := Identity.checkIdentityRuns s
    refine ⟨t, ht, .of_two_transfers rfl (fun h0 => (command_failed h0).resp)
      (fun h0 h1 => (payload_failed h0 h1).resp) fun h0 h1 => ?_⟩
    by_cases hb : (deliveredAt s 1 s.params.idAddr).b0 = s.params.idValue
    · exact .succeeded (ok_below_two h0 h1) nofun (fun _ => hb) (by simp [(ran h0 h1).resp, hb])
    · exact .identityDiffers rfl (ok_below_two h0 h1) hb (by simp [(ran h0 h1).resp, hb])
  | rdxyz =>
    obtain ⟨-, t, ht, command_failed, payload_failed, ran⟩ := Burst.burstRuns s
    exact ⟨t, ht, .of_no_comparison rfl nofun (fun h0 => (command_failed h0).resp)
      (fun h0 h1 => (payload_failed h0 h1).resp) fun h0 h1 => by simp [(ran h0 h1).resp]⟩

theorem Ended.result_isSome (h : Ended i s t) : t.resp.result.isSome = true := by
  cases h with
  | transferFailed _ _ _ resp => simp [resp]
  | readbackDiffers _ _ _ _ _ resp => simp [resp]
  | identityDiffers _ _ _ resp => simp [resp]
  | succeeded _ _ _ result => simp [result]

theorem Ended.result_ne_genericError (h : Ended i s t) : t.resp.result ≠ some .genericError := by
  cases h with
  | transferFailed _ _ _ resp => simp [resp, failResult_ne_genericError]
  | readbackDiffers _ _ _ _ _ resp => simp [resp]
  | identityDiffers _ _ _ resp => simp [resp]
  | succeeded _ _ _ result => simp [result]

/-- A transfer that failed is not among those that returned `OK`. -/
theorem no_fail_of_ok {n : Nat} (ok : ∀ k, k < n → statusAt s k = .ok) : ¬ ∃ k, k < n ∧ statusAt s k = .fail := by
  rintro ⟨k, hk, failed⟩
  cases (ok k hk).symm.trans failed

theorem Ended.busError_iff (h : Ended i s t) : t.resp.result = some .busError ↔
    i ≠ .chkid ∧ ∃ k, k < transferCount i ∧ statusAt s k = .fail := by
  cases h with
  | transferFailed k hk failed resp =>
    have occurred : ∃ k, k < transferCount i ∧ statusAt s k = .fail := ⟨k, hk, failed⟩
    by_cases hi : i = .chkid
    · simp [resp, hi]
    · simp [resp, hi, failResult_of_ne_chkid hi, occurred]
  | readbackDiffers four ok _ _ _ resp => simp [resp, four, no_fail_of_ok ok]
  | identityDiffers chkid _ _ resp => simp [resp, chkid]
  | succeeded ok _ _ result => simp [result, no_fail_of_ok ok]

theorem Ended.readbackMismatch_iff (h : Ended i s t) : t.resp.result = some .readbackMismatch ↔
    transferCount i = 4 ∧ (∀ k, k < 4 → statusAt s k = .ok) ∧ ∃ b, t.rx.b0 = some b ∧ b ≠ writtenValue s.params i := by
  cases h with
  | transferFailed k hk failed resp =>
    simp only [resp, Response.ofResult_result, Option.some.injEq, failResult_ne_readbackMismatch, false_iff]
    rintro ⟨four, ok, -⟩
    exact no_fail_of_ok ok ⟨k, four ▸ hk, failed⟩
  | readbackDiffers four ok b read ne resp =>
    simp only [resp, Response.ofResult_result, true_iff]
    exact ⟨four, ok, b, read, ne⟩
  | identityDiffers chkid _ _ resp => simp [resp, chkid, transferCount]
  | succeeded _ readback _ result =>
    simp only [result, Option.some.injEq, reduceCtorEq, false_iff]
    rintro ⟨four, -, b, read, ne⟩
    exact ne (Option.some.inj (read.symm.trans (readback four)))

theorem Ended.identityMismatch_iff (h : Ended i s t) : t.resp.result = some .identityMismatch ↔ i = .chkid ∧
    ((∃ k, k < 2 ∧ statusAt s k = .fail) ∨
      (∀ k, k < 2 → statusAt s k = .ok) ∧ (deliveredAt s 1 s.params.idAddr).b0 ≠ s.params.idValue) := by
  cases h with
  | transferFailed k hk failed resp =>
    by_cases hi : i = .chkid
    · subst hi
      simp only [resp, Response.ofResult_result, failResult_chkid, true_iff]
      exact ⟨trivial, .inl ⟨k, hk, failed⟩⟩
    · simp [resp, hi, failResult_of_ne_chkid hi]
  | readbackDiffers four _ _ _ _ resp =>
    have not_chkid : i ≠ .chkid := by rintro rfl; cases four
    simp [resp, not_chkid]
  | identityDiffers chkid ok ne resp =>
    simp only [resp, Response.ofResult_result, true_iff]
    exact ⟨chkid, .inr ⟨ok, ne⟩⟩
  | succeeded ok _ identity result =>
    simp only [result, Option.some.injEq, reduceCtorEq, false_iff]
    rintro ⟨rfl, failed | ⟨-, ne⟩⟩
    · exact no_fail_of_ok ok failed
    · exact ne (identity rfl)

/-- Only Success comes with a value (rule R201). -/
theorem Ended.resp_eq_ofResult (h : Ended i s t) {r : Result} (hr : t.resp.result = some r) (ne : r ≠ .success) :
    t.resp = Response.ofResult r := by
  have of_bare : ∀ q, t.resp = Response.ofResult q → t.resp = Response.ofResult r := by
    intro q resp
    obtain rfl : q = r := Option.some.inj ((congrArg Response.result resp).symm.trans hr)
    exact resp
  cases h with
  | transferFailed _ _ _ resp => exact of_bare _ resp
  | readbackDiffers _ _ _ _ _ resp => exact of_bare _ resp
  | identityDiffers _ _ _ resp => exact of_bare _ resp
  | succeeded _ _ _ result => exact absurd (Option.some.inj (hr.symm.trans result)) ne

end ends

/-- Settles O26: each clause read off the way the operation ended. -/
theorem resultsHaveTheirCauses : Obligations.ResultsHaveTheirCauses := by
  intro i s
  obtain ⟨t, ht, ended⟩ := exec_ended i s
  exact ⟨t, ht, ended.result_ne_genericError, ended.busError_iff, ended.readbackMismatch_iff,
    ended.identityMismatch_iff, fun _ => ended.resp_eq_ofResult⟩

/-- Settles O24: transactions leave select deasserted, one completion follows, and each way to end gives a result. -/
theorem everyOperationCompletes : Obligations.EveryOperationCompletes := by
  intro i s
  obtain ⟨u, r, h, _, _, _, ran⟩ := exec_completes i s
  have whole := ran.complete r
  obtain ⟨t, ht, ended⟩ := exec_ended i s
  obtain rfl : u.complete r = t := Host.Outcome.next.inj (h.symm.trans ht)
  exact ⟨_, h, whole.phase, whole.sel, ended.result_isSome, whole.hostLog⟩

theorem exec_result_ne_genericError {i : Instr} {s t : State} (h : exec i s = .next t) :
    t.resp.result ≠ some .genericError := by
  obtain ⟨t', ht', ended⟩ := exec_ended i s
  obtain rfl : t' = t := Host.Outcome.next.inj (ht'.symm.trans h)
  exact ended.result_ne_genericError

/-- Settles O57: the host's moves leave the response alone or empty it; an operation and a row of rule R116 complete
with another result. -/
theorem genericErrorIsNeverProduced : Obligations.GenericErrorIsNeverProduced := by
  constructor
  · intro s t hs h
    rcases step_cases h with ⟨_, _, -, busy⟩ | ⟨-, ⟨_, _, _, -, -, run⟩ | ⟨_, _, rfl⟩⟩
    · exact busyStep_keeps_no_genericError hs busy
    · exact exec_result_ne_genericError run
    · exact hs
  · intro s t hs h
    rcases eventStep_cases h with ⟨_, _, -, busy⟩ | ⟨-, ⟨_, _, _, -, -, rfl⟩ | ⟨_, _, rfl⟩⟩
    · exact busyStep_keeps_no_genericError hs busy
    · nofun
    · exact hs

end Sys2Proof.Exceptions
end

section
/-! PROOFS. Encodings (30_encoding.md): every word is a packing of its three fields (rule R80), so what `decode` does is
said once per operation number (rule R82) and holds of every word. -/

namespace Sys2Proof.Encoding

open Sys2Proof.Machine Sys2Proof.Laws.Encoding Sys2Proof.RegisterAccess Sys2Proof.Configuration Sys2Proof.Identity
  Sys2Proof.Burst Sys2Proof.Safety

/-- Settles O1: `decode` gives back an operation packed with any bits in its ignored fields, zeros among them. -/
theorem decodeEncodeRoundTrip : Obligations.DecodeEncodeRoundTrip := by
  intro i
  cases i with
  | wrreg a d => exact ⟨rfl, decode_pack_wrreg a d⟩
  | rdreg a => exact ⟨rfl, decode_pack_rdreg a 0#8⟩
  | setodr d => exact ⟨rfl, decode_pack_setodr 0#7 d⟩
  | setrng d => exact ⟨rfl, decode_pack_setrng 0#7 d⟩
  | setmeas => exact ⟨rfl, decode_pack_setmeas 0#7 0#8⟩
  | chkid => exact ⟨rfl, decode_pack_chkid 0#7 0#8⟩
  | rdxyz => exact ⟨rfl, decode_pack_rdxyz 0#7 0#8⟩

theorem packRequest_fields (w : ReqWord) : packRequest (opField w) (addrField w) (dataField w) = w := by
  simp only [packRequest, opField, addrField, dataField]
  rw [BitVec.extractLsb'_append_extractLsb'_eq_extractLsb' (by rfl),
    BitVec.extractLsb'_append_extractLsb'_eq_extractLsb' (by rfl)]
  exact BitVec.extractLsb'_eq_self

/-- Settles O2: the fields lie side by side and fill the word. -/
theorem requestWordIsItsFields : Obligations.RequestWordIsItsFields :=
  ⟨fun op a d => ⟨opField_pack op a d, addrField_pack op a d, dataField_pack op a d⟩, packRequest_fields⟩

/-- Two runs in lockstep end with the same trace when they begin with the same trace. -/
theorem trace_eq_of_sameRun {α : Type} {s s' : State} {r r' : α × State} (h : SameRun s s' r r')
    (start : s.trace = s'.trace) : r.2.trace = r'.2.trace := by
  obtain ⟨ev, e, e'⟩ := h.events
  rw [e, e', start]

/-- Settles O3: `decode` drops the ignored bits, and after that the latched word is no input of the operation. -/
theorem ignoredFieldsHaveNoEffect : Obligations.IgnoredFieldsHaveNoEffect := by
  refine ⟨fun a d d' => ?_, ?_, ?_, fun w w' i s _ _ => ?_⟩
  · rw [decode_pack_rdreg, decode_pack_rdreg]
  · rintro op a a' d (rfl | rfl)
    · rw [decode_pack_setodr, decode_pack_setodr]
    · rw [decode_pack_setrng, decode_pack_setrng]
  · rintro op a a' d d' (rfl | rfl | rfl)
    · rw [decode_pack_setmeas, decode_pack_setmeas]
    · rw [decode_pack_chkid, decode_pack_chkid]
    · rw [decode_pack_rdxyz, decode_pack_rdxyz]
  · have inputs : SameInputs (s.takeRequest w) (s.takeRequest w') := ⟨rfl, rfl, rfl, rfl, rfl⟩
    obtain ⟨t, t', ht, ht', ran⟩ := inputs.exec i
    exact ⟨t, t', ht, ht', trace_eq_of_sameRun ran rfl, ran.value⟩

/-! The operation number decides whether a word decodes (rules R82, R97, R98). -/

theorem op_cases : ∀ op : BitVec 3,
    op = 0#3 ∨ op = 1#3 ∨ op = 2#3 ∨ op = 3#3 ∨ op = 4#3 ∨ op = 5#3 ∨ op = 6#3 ∨ op = opReserved := by decide

theorem decode_pack_reserved (a : RegAddr) (d : Byte) : decode (packRequest opReserved a d) = none := by
  simp [decode, opField_pack, opReserved]

theorem decode_pack_eq_none_iff (op : BitVec 3) (a : RegAddr) (d : Byte) :
    decode (packRequest op a d) = none ↔ op = opReserved := by
  rcases op_cases op with rfl | rfl | rfl | rfl | rfl | rfl | rfl | rfl
  · simp [decode_pack_wrreg, opReserved]
  · simp [decode_pack_rdreg, opReserved]
  · simp [decode_pack_setodr, opReserved]
  · simp [decode_pack_setrng, opReserved]
  · simp [decode_pack_setmeas, opReserved]
  · simp [decode_pack_chkid, opReserved]
  · simp [decode_pack_rdxyz, opReserved]
  · simp [decode_pack_reserved]

theorem decode_eq_none_iff (w : ReqWord) : decode w = none ↔ opField w = opReserved := by
  have h := decode_pack_eq_none_iff (opField w) (addrField w) (dataField w)
  rwa [packRequest_fields] at h

theorem step_request {s : State} {w : ReqWord} {rest : List HostMove} (idle : s.phase = .idle)
    (hp : s.port = .request w :: rest) : step s = present exec w { s with port := rest } := by
  simp only [step, operationStep, idle, idleStep, hp]

/-- Settles O4: `decode` looks at the operation number only, and a word it does not name is refused when presented. -/
theorem reservedRequestIsRefused : Obligations.ReservedRequestIsRefused := by
  refine ⟨decode_eq_none_iff, fun w s rest reserved idle hp => ?_⟩
  have undecoded : decode w = none := (decode_eq_none_iff w).mpr reserved
  rw [step_request idle hp]
  simp only [present, undecoded]

theorem packRequest_and (op op' : BitVec 3) (a a' : RegAddr) (d d' : Byte) :
    packRequest op a d &&& packRequest op' a' d' = packRequest (op &&& op') (a &&& a') (d &&& d') := by
  have split : op ++ a ++ d &&& op' ++ a' ++ d' = (op &&& op') ++ (a &&& a') ++ (d &&& d') := by
    rw [BitVec.and_append, BitVec.and_append]
  exact split

/-- The mask of rule R97 keeps the operation number. -/
theorem packRequest_and_mask (op : BitVec 3) (a : RegAddr) (d : Byte) :
    packRequest op a d &&& 0x38000#18 = packRequest op 0#7 0#8 := by
  have mask : (0x38000#18 : ReqWord) = packRequest (BitVec.allOnes 3) 0#7 0#8 := rfl
  rw [mask, packRequest_and, BitVec.and_allOnes, BitVec.and_zero, BitVec.and_zero]

theorem mask_of_mem_opcodeTable : ∀ r ∈ opcodeTable, r.mask = 0x38000#18 := by decide

theorem row_for_op : ∀ op : BitVec 3, (∃ r ∈ opcodeTable, packRequest op 0#7 0#8 = r.pattern) ↔ op ≠ opReserved := by
  decide

theorem accepts_iff {r : OpRow} (hr : r ∈ opcodeTable) (w : ReqWord) :
    r.accepts w = true ↔ packRequest (opField w) 0#7 0#8 = r.pattern := by
  have masked := packRequest_and_mask (opField w) (addrField w) (dataField w)
  rw [packRequest_fields] at masked
  rw [OpRow.accepts, mask_of_mem_opcodeTable r hr, masked, beq_iff_eq]

/-- Settles O5: every row looks at the operation number only, and each number but the reserved one has one row. -/
theorem opcodeTableCoversAndIsDisjoint : Obligations.OpcodeTableCoversAndIsDisjoint := by
  constructor
  · intro w
    have covered : (∃ r ∈ opcodeTable, r.accepts w = true) ↔ opField w ≠ opReserved := by
      rw [← row_for_op]
      exact exists_congr fun r => and_congr_right fun hr => accepts_iff hr w
    rw [covered, Option.isSome_iff_ne_none, Ne, decode_eq_none_iff]
  · intro w r r' hr hr' acc acc'
    have pattern : r.pattern = r'.pattern := ((accepts_iff hr w).mp acc).symm.trans ((accepts_iff hr' w).mp acc')
    have mask : r.mask = r'.mask := (mask_of_mem_opcodeTable r hr).trans (mask_of_mem_opcodeTable r' hr').symm
    cases r
    cases r'
    simp_all

/-- Settles O6: each word is a packing of its operation, or of the reserved number. -/
theorem listedWordsDecode : Obligations.ListedWordsDecode :=
  ⟨decode_pack_wrreg 0x2C#7 0x01#8, decode_pack_rdreg 0x2C#7 0x00#8, decode_pack_setodr 0x00#7 0x05#8,
    decode_pack_setrng 0x00#7 0x02#8, decode_pack_setmeas 0x00#7 0x00#8, decode_pack_chkid 0x00#7 0x00#8,
    decode_pack_rdxyz 0x7F#7 0xFF#8, decode_pack_reserved 0x00#7 0x00#8⟩

/-! The words of the assembler's lines as numbers (rule R95). -/

/-- Appending is a sum: the two halves do not overlap. -/
theorem toNat_append_eq_add {m n : Nat} (x : BitVec m) (y : BitVec n) :
    (x ++ y).toNat = x.toNat * 2 ^ n + y.toNat := by
  rw [BitVec.toNat_append, ← Nat.shiftLeft_add_eq_or_of_lt y.isLt, Nat.shiftLeft_eq]

theorem toNat_packRequest (op : BitVec 3) (a : RegAddr) (d : Byte) :
    (packRequest op a d).toNat = 0x8000 * op.toNat + 256 * a.toNat + d.toNat := by
  rw [packRequest, toNat_append_eq_add, toNat_append_eq_add]
  omega

theorem toNat_addr {a : Nat} (h : a < 128) : (BitVec.ofNat 7 a).toNat = a := Nat.mod_eq_of_lt h

theorem toNat_value {v : Nat} (h : v < 256) : (BitVec.ofNat 8 v).toNat = v := Nat.mod_eq_of_lt h

theorem assemble_of_not_wellFormed {l : AsmLine} (h : l.wellFormed = false) : l.assemble = none := by
  simp [AsmLine.assemble, h]

/-- Settles O8: operands in range keep their number in their field, and the range check refuses the others. -/
theorem assemblerLinesGiveTheirWords : Obligations.AssemblerLinesGiveTheirWords := by
  refine ⟨fun a v ha hv => ?_, fun a ha => ?_, fun v hv => ?_, fun v hv => ?_, rfl, rfl, rfl, fun a v => ⟨?_, ?_, ?_⟩⟩
  · refine ⟨.wrreg (BitVec.ofNat 7 a) (BitVec.ofNat 8 v), by simp [AsmLine.assemble, AsmLine.wellFormed, ha, hv], ?_⟩
    simp [encode, toNat_packRequest, toNat_addr ha, toNat_value hv]
  · refine ⟨.rdreg (BitVec.ofNat 7 a), by simp [AsmLine.assemble, AsmLine.wellFormed, ha], ?_⟩
    simp [encode, toNat_packRequest, toNat_addr ha]
  · refine ⟨.setodr (BitVec.ofNat 8 v), by simp [AsmLine.assemble, AsmLine.wellFormed, hv], ?_⟩
    simp [encode, toNat_packRequest, toNat_value hv]
  · refine ⟨.setrng (BitVec.ofNat 8 v), by simp [AsmLine.assemble, AsmLine.wellFormed, hv], ?_⟩
    simp [encode, toNat_packRequest, toNat_value hv]
  · intro out
    refine assemble_of_not_wellFormed ?_
    simp only [AsmLine.wellFormed, Bool.and_eq_false_iff, decide_eq_false_iff_not]
    omega
  · intro out
    exact assemble_of_not_wellFormed (decide_eq_false (by omega))
  · intro out
    exact ⟨assemble_of_not_wellFormed (decide_eq_false (by omega)),
      assemble_of_not_wellFormed (decide_eq_false (by omega))⟩

/-! The response as bits (rules R91, R92). -/

theorem ofCode?_code (r : Result) : Result.ofCode? r.code = some r := by cases r <;> rfl

/-- Settles O9: the five codes in order, each read back, and the three numbers left over. -/
theorem resultCodesRoundTrip : Obligations.ResultCodesRoundTrip :=
  ⟨ofCode?_code, rfl, rfl, rfl, rfl, rfl, rfl, rfl, rfl⟩

@[simp] theorem agrees_some {n : Nat} (x bits : BitVec n) : agrees (some x) bits = true ↔ bits = x := by
  rw [agrees, beq_iff_eq, eq_comm]

@[simp] theorem agrees_none {n : Nat} (bits : BitVec n) : agrees none bits = true := rfl

theorem packsInto_iff (r : Response) (w : BitVec 107) : r.packsInto w = true ↔
    agrees (r.result.map Result.code) (w.extractLsb' 104 3) = true ∧ agrees r.rdata (w.extractLsb' 96 8) = true ∧
      agrees r.x (w.extractLsb' 64 32) = true ∧ agrees r.y (w.extractLsb' 32 32) = true ∧
      agrees r.z (w.extractLsb' 0 32) = true := by
  simp only [Response.packsInto, Bool.and_eq_true, and_assoc]

/-- Bits above the lower half of an appended pair are bits of the upper half. -/
theorem extractLsb'_append_above {m n : Nat} (x : BitVec m) (y : BitVec n) {start k : Nat} (h : start = k + n)
    (len : Nat) : (x ++ y).extractLsb' start len = x.extractLsb' k len := by
  subst h
  apply BitVec.eq_of_getLsbD_eq
  intro j _
  rw [BitVec.getLsbD_extractLsb', BitVec.getLsbD_extractLsb', BitVec.getLsbD_append, if_neg (by omega)]
  congr 2
  omega

theorem fields_of_append (c : BitVec 3) (b : Byte) (x y z : Word32) :
    (c ++ b ++ x ++ y ++ z).extractLsb' 104 3 = c ∧ (c ++ b ++ x ++ y ++ z).extractLsb' 96 8 = b ∧
      (c ++ b ++ x ++ y ++ z).extractLsb' 64 32 = x ∧ (c ++ b ++ x ++ y ++ z).extractLsb' 32 32 = y ∧
      (c ++ b ++ x ++ y ++ z).extractLsb' 0 32 = z := by
  refine ⟨?_, ?_, ?_, ?_, BitVec.extractLsb'_append_eq_right⟩
  · rw [extractLsb'_append_above _ z (k := 72) rfl, extractLsb'_append_above _ y (k := 40) rfl,
      extractLsb'_append_above _ x (k := 8) rfl, BitVec.extractLsb'_append_eq_left]
  · rw [extractLsb'_append_above _ z (k := 64) rfl, extractLsb'_append_above _ y (k := 32) rfl,
      extractLsb'_append_above _ x (k := 0) rfl, BitVec.extractLsb'_append_eq_right]
  · rw [extractLsb'_append_above _ z (k := 32) rfl, extractLsb'_append_above _ y (k := 0) rfl,
      BitVec.extractLsb'_append_eq_right]
  · rw [extractLsb'_append_above _ z (k := 0) rfl, BitVec.extractLsb'_append_eq_right]

/-- The five fields lie side by side and fill the word (rule R91). -/
theorem eq_append_iff_fields (c : BitVec 3) (b : Byte) (x y z : Word32) (w : BitVec 107) :
    (w.extractLsb' 104 3 = c ∧ w.extractLsb' 96 8 = b ∧ w.extractLsb' 64 32 = x ∧ w.extractLsb' 32 32 = y ∧
      w.extractLsb' 0 32 = z) ↔ w = c ++ b ++ x ++ y ++ z := by
  constructor
  · rintro ⟨rfl, rfl, rfl, rfl, rfl⟩
    rw [BitVec.extractLsb'_append_extractLsb'_eq_extractLsb' (by rfl),
      BitVec.extractLsb'_append_extractLsb'_eq_extractLsb' (by rfl),
      BitVec.extractLsb'_append_extractLsb'_eq_extractLsb' (by rfl),
      BitVec.extractLsb'_append_extractLsb'_eq_extractLsb' (by rfl)]
    exact BitVec.extractLsb'_eq_self.symm
  · rintro rfl
    exact fields_of_append c b x y z

/-- Settles O10: a packing is asked for field by field, and a field with no value asks for nothing. -/
theorem responsePackingHasTheFields : Obligations.ResponsePackingHasTheFields := by
  refine ⟨fun c b x y z w => ?_, fun c w => ?_, fun b w => ?_, fun x y z w => ?_, fun w => ?_⟩ <;> rw [packsInto_iff]
  · simpa using eq_append_iff_fields c.code b x y z w
  · simp [Response.ofResult]
  · simp [Response.ofByte]
  · simp [Response.ofAxes]
  · simp [Response.empty]

end Sys2Proof.Encoding
end

section
/-! PROOFS. What one row of rule R116 and one whole operation leave alone, and the select line they end with (rules R25,
R28, R36, R37). -/

namespace Sys2Proof.Machine

open Sys2Proof.Safety

/-- What every row of rule R116 leaves alone, and that it causes one bus event. -/
structure RowFrame (s t : State) : Prop where
  req : t.req = s.req
  port : t.port = s.port
  handle : t.handle = s.handle
  params : t.params = s.params
  devMode : t.devMode = s.devMode
  dev : cellsWf s.dev = true → cellsWf t.dev = true
  trace : ∃ e, t.trace = s.trace ++ [e]

theorem RowFrame.of_transfer {s : State} {r : Status × State} (h : TransferFrame s r.2) (k : TxnIndex)
    (onOk : SubPhase) : RowFrame s (State.afterTransfer r k onOk) := by
  rw [State.afterTransfer_eq]
  exact ⟨h.req, h.port, h.handle, h.params, h.devMode, h.dev, h.trace⟩

theorem busyStep_frame {s t : State} {k : TxnIndex} {p : SubPhase} (h : busyStep k p s = .next t) : RowFrame s t := by
  obtain ⟨_, i, x, -, -, -, ⟨-, rfl⟩ | ⟨-, rfl⟩ | ⟨-, rfl⟩ | ⟨-, -, -, rfl⟩ | ⟨-, eval⟩ | ⟨-, rfl⟩⟩ := busyStep_next h
  · exact ⟨rfl, rfl, rfl, rfl, rfl, id, _, rfl⟩
  · exact .of_transfer (s.command_frame x) k _
  · exact .of_transfer (s.payload_frame x) k _
  · exact ⟨rfl, rfl, rfl, rfl, rfl, id, _, rfl⟩
  · obtain ⟨r, rfl, -, -⟩ := evalOp_next eval
    exact ⟨rfl, rfl, rfl, rfl, rfl, id, _, rfl⟩
  · exact ⟨rfl, rfl, rfl, rfl, rfl, id, _, rfl⟩

/-- After a transfer select is still asserted, whether the transfer failed or not. -/
theorem afterTransfer_sel {r : Status × State} (k : TxnIndex) {onOk : SubPhase} (h : r.2.sel = .asserted)
    (hk : selFor (.busy k onOk) = .asserted) :
    (State.afterTransfer r k onOk).sel = selFor (State.afterTransfer r k onOk).phase := by
  rw [State.afterTransfer_eq]
  cases r.1
  · exact h.trans hk.symm
  · exact h

theorem busyStep_sel {s t : State} {k : TxnIndex} {p : SubPhase} (hs : s.sel = selFor (.busy k p))
    (h : busyStep k p s = .next t) : t.sel = selFor t.phase := by
  obtain ⟨_, i, x, -, -, -,
    ⟨-, rfl⟩ | ⟨rfl, rfl⟩ | ⟨rfl, rfl⟩ | ⟨-, -, -, rfl⟩ | ⟨-, eval⟩ | ⟨-, rfl⟩⟩ := busyStep_next h
  · rfl
  · exact afterTransfer_sel k ((s.command_frame x).sel.trans hs) rfl
  · exact afterTransfer_sel k ((s.payload_frame x).sel.trans hs) rfl
  · rfl
  · obtain ⟨r, rfl, -, -⟩ := evalOp_next eval
    rfl
  · rfl

/-- What a whole operation did, whichever it is (rules R111, R203). -/
theorem exec_ranAs {i : Instr} {s t : State} (h : exec i s = .next t) : ∃ n ev r rx, RanAs s t n ev r rx := by
  obtain ⟨u, r, hu, n, ev, rx, ran⟩ := exec_completes i s
  obtain rfl : u.complete r = t := Host.Outcome.next.inj (hu.symm.trans h)
  exact ⟨n, ev, r, rx, ran.complete r⟩

end Sys2Proof.Machine

namespace Sys2Proof.Invariants

open Sys2Proof.Machine Sys2Proof.Safety

/-- Settles O49: a busy engine takes a row of rule R116, never a move of the host. -/
theorem busyStepCausesOneEvent : Obligations.BusyStepCausesOneEvent := by
  intro s t busy h
  rcases eventStep_cases h with ⟨k, p, -, row⟩ | ⟨idle, -⟩
  · have frame := busyStep_frame row
    exact ⟨frame.trace, frame.req, frame.port⟩
  · exact absurd idle busy

/-- Settles O38: a row of rule R116 and an operation write cells only through `cellsWrite`, a host's move none. -/
theorem deviceCellsStayCanonical : Obligations.DeviceCellsStayCanonical := by
  constructor
  · intro s t wf h
    rcases step_cases h with ⟨_, _, -, row⟩ | ⟨-, ⟨_, _, _, -, -, run⟩ | ⟨_, _, rfl⟩⟩
    · exact (busyStep_frame row).dev wf
    · exact exec_keeps_cellsWf run wf
    · exact wf
  · intro s t wf h
    rcases eventStep_cases h with ⟨_, _, -, row⟩ | ⟨-, ⟨_, _, _, -, -, rfl⟩ | ⟨_, _, rfl⟩⟩
    · exact (busyStep_frame row).dev wf
    · exact wf
    · exact wf

/-- Settles O55: the frame of a row, of an operation and of a host's move. -/
theorem configurationIsConstant : Obligations.ConfigurationIsConstant := by
  constructor
  · intro s t h
    rcases step_cases h with ⟨_, _, -, row⟩ | ⟨-, ⟨_, _, _, -, -, run⟩ | ⟨_, _, rfl⟩⟩
    · have frame := busyStep_frame row
      exact ⟨frame.handle, frame.params, frame.devMode⟩
    · obtain ⟨_, _, _, _, ran⟩ := exec_ranAs run
      exact ⟨ran.handle, ran.params, ran.devMode⟩
    · exact ⟨rfl, rfl, rfl⟩
  · intro s t h
    rcases eventStep_cases h with ⟨_, _, -, row⟩ | ⟨-, ⟨_, _, _, -, -, rfl⟩ | ⟨_, _, rfl⟩⟩
    · have frame := busyStep_frame row
      exact ⟨frame.handle, frame.params, frame.devMode⟩
    · exact ⟨rfl, rfl, rfl⟩
    · exact ⟨rfl, rfl, rfl⟩

/-- Settles O51: each row drives select as its next phase asks, an operation ends idle with select released, and taking
a request leaves select as an idle engine has it. -/
theorem selectLineFollowsThePhase : Obligations.SelectLineFollowsThePhase := by
  constructor
  · intro s t hs h
    rcases eventStep_cases h with ⟨k, p, busy, row⟩ | ⟨idle, ⟨_, _, _, -, -, rfl⟩ | ⟨_, _, rfl⟩⟩
    · exact busyStep_sel (busy ▸ hs) row
    · rw [idle] at hs
      exact hs
    · exact hs
  · intro s t hs h
    rcases step_cases h with ⟨k, p, busy, row⟩ | ⟨-, ⟨_, _, _, -, -, run⟩ | ⟨_, _, rfl⟩⟩
    · exact busyStep_sel (busy ▸ hs) row
    · obtain ⟨_, _, _, _, ran⟩ := exec_ranAs run
      rw [ran.sel, ran.phase]
      rfl
    · exact hs

end Sys2Proof.Invariants
end

section
/-! PROOFS. The sequencer refines the operation (90_conflicts.md C7): an operation is the transactions of its row in the
table of rule R116, and four rows of the sequencer, or three when the command fails, are one transaction. -/

namespace Sys2Proof.Machine

open Sys2Proof.Safety

/-! The atomic operation by its transactions (rules R111, R116). -/

theorem transaction_one_exists (p : Params) (i : Instr) : ∃ x, transaction p i .one = some x := by
  cases i <;> exact ⟨_, rfl⟩

/-- A read transaction that returned `OK` filled the buffer with one receive (rule R26). -/
theorem State.runTxn_read_rx {s u : State} {x : Txn} (n : RxLen) (h : s.runTxn x = (.ok, u))
    (hk : x.kind = .r1 ∧ n = .one ∨ x.kind = .r9 ∧ n = .nine) : ∃ bs, u.rx = rxAfter n bs := by
  cases h0 : statusAt s 0
  · cases h1 : statusAt s 1
    · obtain ⟨v, hv, ran⟩ := s.runTxn_ran_read_ok x n h0 h1 hk
      obtain rfl : v = u := congrArg Prod.snd (hv.symm.trans h)
      exact ⟨_, ran.rx⟩
    · obtain ⟨v, hv, -⟩ := s.runTxn_ran_read_fail x n h0 h1 hk
      cases hv.symm.trans h
  · obtain ⟨v, hv, -⟩ := s.runTxn_ran_command_fail x h0
    cases hv.symm.trans h

theorem State.runTxn_read_byte {s u : State} {a : RegAddr} (h : s.runTxn (Txn.read a) = (.ok, u)) :
    ∃ b, u.rx = rxOne b := by
  obtain ⟨bs, hbs⟩ := State.runTxn_read_rx .one h (.inl ⟨rfl, rfl⟩)
  exact ⟨bs.b0, hbs⟩

theorem State.runTxn_burst_bytes {s u : State} {p : Params} (h : s.runTxn (Txn.burst p) = (.ok, u)) :
    ∃ bs : Nine Byte, u.rx = bs.map some :=
  State.runTxn_read_rx .nine h (.inr ⟨rfl, rfl⟩)

theorem State.runTxn_params {s u : State} {x : Txn} {st : Status} (h : s.runTxn x = (st, u)) : u.params = s.params :=
  (congrArg (fun r => r.2.params) h.symm).trans (s.runTxn_frame x).params

section byTransactions
variable {s u v : State} {i : Instr} {x y : Txn}

/-- A failed first transaction ends the operation (rule R201). -/
theorem exec_of_first_fail (hx : transaction s.params i .one = some x) (h : s.runTxn x = (.fail, u)) :
    exec i s = .next (u.complete (Response.ofResult (failResult i))) := by
  cases i <;> cases hx
  case wrreg => exact exec_wrreg_of_fail h
  case rdreg => exact exec_rdreg_of_none (State.memRead_of_fail h)
  case setodr | setrng | setmeas => exact congrArg _ (State.setVerify_of_write_fail h)
  case chkid => exact exec_chkid_of_none (State.memRead_of_fail h)
  case rdxyz => exact exec_rdxyz_of_none (State.memReadBurst_of_fail h)

/-- An operation of one transaction is evaluated after it (rule R116, S6). -/
theorem exec_of_only_ok (hx : transaction s.params i .one = some x) (only : transaction s.params i .two = none)
    (h : s.runTxn x = (.ok, u)) : exec i s = evalOp i u := by
  cases i <;> cases hx
  case wrreg => exact exec_wrreg_of_ok h
  case rdreg =>
    obtain ⟨b, hb⟩ := State.runTxn_read_byte h
    rw [exec_rdreg_of_some (State.memRead_of_ok h hb)]
    simp [evalOp, hb, rxOne]
  case setodr | setrng | setmeas => cases only
  case chkid =>
    obtain ⟨b, hb⟩ := State.runTxn_read_byte h
    rw [exec_chkid_of_some (State.memRead_of_ok h hb)]
    simp [evalOp, hb, rxOne]
  case rdxyz =>
    obtain ⟨bs, hbs⟩ := State.runTxn_burst_bytes h
    rw [exec_rdxyz_of_some (State.memReadBurst_of_ok h hbs)]
    simp [evalOp, hbs, Nine.map, fullBuffer]

/-- A failed read back ends the operation (rules R140, R201). -/
theorem exec_of_second_fail (hx : transaction s.params i .one = some x) (hy : transaction s.params i .two = some y)
    (h : s.runTxn x = (.ok, u)) (h' : u.runTxn y = (.fail, v)) :
    exec i s = .next (v.complete (Response.ofResult (failResult i))) := by
  cases i <;> cases hx <;> cases hy
  all_goals exact congrArg _ (State.setVerify_of_read_fail h (State.memRead_of_fail h'))

/-- An operation of two transactions is evaluated after the second (rule R116, S6). -/
theorem exec_of_second_ok (hx : transaction s.params i .one = some x) (hy : transaction s.params i .two = some y)
    (h : s.runTxn x = (.ok, u)) (h' : u.runTxn y = (.ok, v)) : exec i s = evalOp i v := by
  cases i <;> cases hx <;> cases hy
  all_goals
    obtain ⟨b, hb⟩ := State.runTxn_read_byte h'
    have params : v.params = s.params := (State.runTxn_params h').trans (State.runTxn_params h)
    refine (congrArg _ (State.setVerify_of_read_ok h (State.memRead_of_ok h' hb))).trans ?_
    simp [evalOp, hb, rxOne, writtenValue, params]

end byTransactions

/-! The rows of rule R116 in a state whose phase stands apart. -/

/-- The latched request names the operation `i` (rule R25). -/
def Latched (s : State) (i : Instr) : Prop := ∃ w, s.req = some w ∧ decode w = some i

theorem evalOp_inPhase (i : Instr) (s : State) (p : Phase) : evalOp i (s.inPhase p) = evalOp i s := by
  cases i <;> rfl

theorem afterTransfer_inPhase (st : Status) (s : State) (q : Phase) (k : TxnIndex) (onOk : SubPhase) :
    State.afterTransfer (st, s.inPhase q) k onOk =
      s.inPhase (.busy k (match st with | .ok => onOk | .fail => .relFail)) := by
  cases st <;> rfl

section rows
variable {s : State} {i : Instr} {k : TxnIndex} {x : Txn}

theorem eventStep_sel (latched : Latched s i) (hx : transaction s.params i k = some x) :
    eventStep (s.inPhase (.busy k .sel)) = .next (s.clearRx.selAssert.inPhase (.busy k .cmd)) := by
  obtain ⟨w, hw, hi⟩ := latched
  exact eventStep_row (s := s.inPhase (.busy k .sel)) rfl hw hi hx

theorem eventStep_cmd (latched : Latched s i) (hx : transaction s.params i k = some x) :
    eventStep (s.inPhase (.busy k .cmd)) =
      .next ((s.command x).2.inPhase (.busy k (match (s.command x).1 with | .ok => .pay | .fail => .relFail))) := by
  obtain ⟨w, hw, hi⟩ := latched
  rw [eventStep_row (s := s.inPhase (.busy k .cmd)) rfl hw hi hx, State.command, State.inPhase_transmit,
    afterTransfer_inPhase]
  rfl

theorem eventStep_pay (latched : Latched s i) (hx : transaction s.params i k = some x) :
    eventStep (s.inPhase (.busy k .pay)) =
      .next ((s.payload x).2.inPhase (.busy k (match (s.payload x).1 with | .ok => .relOk | .fail => .relFail))) := by
  obtain ⟨w, hw, hi⟩ := latched
  rw [eventStep_row (s := s.inPhase (.busy k .pay)) rfl hw hi hx, State.inPhase_payload, afterTransfer_inPhase]

theorem eventStep_relOk_first {y : Txn} (latched : Latched s i) (hx : transaction s.params i .one = some x)
    (hy : transaction s.params i .two = some y) :
    eventStep (s.inPhase (.busy .one .relOk)) = .next (s.selDeassert.inPhase (.busy .two .sel)) := by
  obtain ⟨w, hw, hi⟩ := latched
  have two : transaction (s.inPhase (.busy .one .relOk)).params i .two = some y := hy
  rw [eventStep_row (s := s.inPhase (.busy .one .relOk)) rfl hw hi hx]
  simp only [releaseOk, two]
  rfl

theorem eventStep_relOk_last (latched : Latched s i) (hx : transaction s.params i k = some x)
    (last : k = .two ∨ transaction s.params i .two = none) :
    eventStep (s.inPhase (.busy k .relOk)) = evalOp i s.selDeassert := by
  obtain ⟨w, hw, hi⟩ := latched
  rw [eventStep_row (s := s.inPhase (.busy k .relOk)) rfl hw hi hx]
  refine Eq.trans ?_ (evalOp_inPhase i s.selDeassert (.busy k .relOk))
  rcases last with rfl | only
  · rfl
  · have none_left : transaction (s.inPhase (.busy k .relOk)).params i .two = none := only
    cases k
    · simp only [releaseOk, none_left]
      rfl
    · rfl

theorem eventStep_relFail (latched : Latched s i) (hx : transaction s.params i k = some x) :
    eventStep (s.inPhase (.busy k .relFail)) =
      .next (s.selDeassert.complete (Response.ofResult (failResult i))) := by
  obtain ⟨w, hw, hi⟩ := latched
  exact eventStep_row (s := s.inPhase (.busy k .relFail)) rfl hw hi hx

end rows

/-! Four rows are one transaction. -/

theorem eventRun_of_step {s t : State} (h : eventStep s = .next t) (n : Nat) : eventRun (n + 1) s = eventRun n t := by
  simp only [eventRun, h]

/-- Before its first transfer a transaction has cleared the buffer and asserted select (rule R111). -/
theorem State.selected_frame (s : State) : TxnFrame s s.clearRx.selAssert := ⟨rfl, rfl, rfl, rfl, rfl, rfl, rfl, rfl⟩

theorem Latched.of_frame {s u : State} {i : Instr} (h : Latched s i) (frame : TxnFrame s u) : Latched u i := by
  obtain ⟨w, hw, hi⟩ := h
  exact ⟨w, frame.req.trans hw, hi⟩

section oneTransaction
variable {s u : State} {i : Instr} {k : TxnIndex} {x : Txn}

/-- The rows of a transaction in which no transfer failed, up to its release. -/
theorem eventRun_to_relOk (latched : Latched s i) (hx : transaction s.params i k = some x)
    (h : s.runTxn x = (.ok, u)) : ∃ v, v.selDeassert = u ∧ TxnFrame s v ∧
      eventRun 3 (s.inPhase (.busy k .sel)) = .next (v.inPhase (.busy k .relOk)) := by
  have commanded : TxnFrame s (s.clearRx.selAssert.command x).2 :=
    s.selected_frame.trans (s.clearRx.selAssert.command_frame x).toTxnFrame
  have c_step := eventStep_cmd (s := s.clearRx.selAssert) latched hx
  rw [State.runTxn, State.transfers] at h
  rcases hc : s.clearRx.selAssert.command x with ⟨_ | _, c⟩ <;> rw [hc] at h commanded c_step
  · obtain ⟨ok, released⟩ := Prod.mk.inj h
    have p_step := eventStep_pay (latched.of_frame commanded) ((congrArg (transaction · i k) commanded.params).trans hx)
    rw [ok] at p_step
    refine ⟨(c.payload x).2, released, commanded.trans (c.payload_frame x).toTxnFrame, ?_⟩
    rw [eventRun_of_step (eventStep_sel latched hx), eventRun_of_step c_step, eventRun_of_step p_step]
    rfl
  · cases h

/-- The rows of the last transaction in which no transfer failed, with the completion that follows. -/
theorem eventRun_last {t : State} (latched : Latched s i) (hx : transaction s.params i k = some x)
    (last : k = .two ∨ transaction s.params i .two = none) (h : s.runTxn x = (.ok, u)) (eval : evalOp i u = .next t) :
    eventRun 4 (s.inPhase (.busy k .sel)) = .next t := by
  obtain ⟨v, rfl, frame, run⟩ := eventRun_to_relOk latched hx h
  have release := eventStep_relOk_last (latched.of_frame frame) (frame.params ▸ hx) (frame.params ▸ last)
  rw [eventRun_add (m := 1) run, eventRun_of_step (release.trans eval)]
  rfl

/-- The rows of a first transaction in which no transfer failed, up to the second. -/
theorem eventRun_first {y : Txn} (latched : Latched s i) (hx : transaction s.params i .one = some x)
    (hy : transaction s.params i .two = some y) (h : s.runTxn x = (.ok, u)) :
    eventRun 4 (s.inPhase (.busy .one .sel)) = .next (u.inPhase (.busy .two .sel)) := by
  obtain ⟨v, rfl, frame, run⟩ := eventRun_to_relOk latched hx h
  have release := eventStep_relOk_first (latched.of_frame frame) (frame.params ▸ hx) (frame.params ▸ hy)
  rw [eventRun_add (m := 1) run, eventRun_of_step release]
  rfl

/-- The rows of a transaction in which a transfer failed, with the completion that follows. -/
theorem eventRun_fail (latched : Latched s i) (hx : transaction s.params i k = some x) (h : s.runTxn x = (.fail, u)) :
    ∃ n, n ≤ 4 ∧ eventRun n (s.inPhase (.busy k .sel)) =
      .next (u.complete (Response.ofResult (failResult i))) := by
  have commanded : TxnFrame s (s.clearRx.selAssert.command x).2 :=
    s.selected_frame.trans (s.clearRx.selAssert.command_frame x).toTxnFrame
  have c_step := eventStep_cmd (s := s.clearRx.selAssert) latched hx
  rw [State.runTxn, State.transfers] at h
  rcases hc : s.clearRx.selAssert.command x with ⟨_ | _, c⟩ <;> rw [hc] at h commanded c_step <;>
    obtain ⟨failed, rfl⟩ := Prod.mk.inj h
  · have hc_x : transaction c.params i k = some x := (congrArg (transaction · i k) commanded.params).trans hx
    have paid := (c.payload_frame x).toTxnFrame
    have p_step := eventStep_pay (latched.of_frame commanded) hc_x
    rw [failed] at p_step
    have release := eventStep_relFail ((latched.of_frame commanded).of_frame paid)
      ((congrArg (transaction · i k) paid.params).trans hc_x)
    refine ⟨4, le_rfl, ?_⟩
    rw [eventRun_of_step (eventStep_sel latched hx), eventRun_of_step c_step, eventRun_of_step p_step,
      eventRun_of_step release]
    rfl
  · have release := eventStep_relFail (latched.of_frame commanded)
      ((congrArg (transaction · i k) commanded.params).trans hx)
    refine ⟨3, by omega, ?_⟩
    rw [eventRun_of_step (eventStep_sel latched hx), eventRun_of_step c_step, eventRun_of_step release]
    rfl

end oneTransaction

/-- The rows of a whole operation reach the state of the atomic operation (90_conflicts.md C7). -/
theorem eventRun_reaches_exec {s t : State} {i : Instr} (latched : Latched s i) (h : exec i s = .next t) :
    ∃ n, n ≤ 8 ∧ eventRun n (s.inPhase (.busy .one .sel)) = .next t := by
  obtain ⟨x, hx⟩ := transaction_one_exists s.params i
  rcases e : s.runTxn x with ⟨_ | _, u⟩
  case fail =>
    rw [exec_of_first_fail hx e] at h
    obtain ⟨n, hn, run⟩ := eventRun_fail latched hx e
    exact ⟨n, by omega, run.trans h⟩
  cases second : transaction s.params i .two with
  | none => exact ⟨4, by omega, eventRun_last latched hx (.inr second) e (exec_of_only_ok hx second e ▸ h)⟩
  | some y =>
    have first := eventRun_first latched hx second e
    have frame := s.runTxn_frame x
    rw [e] at frame
    have latched_u : Latched u i := latched.of_frame frame
    have hy : transaction u.params i .two = some y := (State.runTxn_params e).symm ▸ second
    rcases f : u.runTxn y with ⟨_ | _, v⟩
    · refine ⟨8, le_rfl, ?_⟩
      rw [eventRun_add (m := 4) first]
      exact eventRun_last latched_u hy (.inl rfl) f (exec_of_second_ok hx second e f ▸ h)
    · rw [exec_of_second_fail hx second e f] at h
      obtain ⟨n, hn, run⟩ := eventRun_fail latched_u hy f
      refine ⟨4 + n, by omega, ?_⟩
      rw [eventRun_add first, run, h]

theorem eventStep_request {s : State} {w : ReqWord} {rest : List HostMove} {i : Instr} (idle : s.phase = .idle)
    (hp : s.port = .request w :: rest) (hi : decode w = some i) :
    eventStep s = .next ({ s with port := rest }.takeRequest w) := by
  simp only [eventStep, idle, idleStep, hp, present, hi]

end Sys2Proof.Machine

namespace Sys2Proof.Sequencer

open Sys2Proof.Machine Sys2Proof.Encoding

theorem step_decoded_request {s : State} {w : ReqWord} {rest : List HostMove} {i : Instr} (idle : s.phase = .idle)
    (hp : s.port = .request w :: rest) (hi : decode w = some i) :
    step s = exec i ({ s with port := rest }.takeRequest w) := by
  rw [step_request idle hp]
  simp only [present, hi]

/-- Settles O48: S0 latches the request, and the rows that follow are the operation's transactions. -/
theorem sequencerRefinesTheOperation : Obligations.SequencerRefinesTheOperation := by
  intro s w rest i idle hp hi
  obtain ⟨t, ht⟩ := exec_answers_next i ({ s with port := rest }.takeRequest w)
  obtain ⟨n, hn, run⟩ := eventRun_reaches_exec ⟨w, rfl, hi⟩ ht
  refine ⟨n + 1, t, by omega, ?_, (step_decoded_request idle hp hi).trans ht⟩
  rw [eventRun_of_step (eventStep_request idle hp hi)]
  exact run

end Sys2Proof.Sequencer
end

section
/-! PROOFS. The invariant of the machine (rules R23, R26, R28, R88, R114, R115): what it says in a busy phase and at an
idle engine, kept by every row of rule R116, and so by every operation, which is a run of those rows. -/

namespace Sys2Proof.Machine

open Sys2Proof.Safety

/-- Where the trace stands on the bus in a phase of the transaction `x` (rules R88, R115). -/
def busIn (x : Txn) : SubPhase → Bus
  | .sel => .released
  | .cmd => .selected
  | .pay => .commanded (commandByte x.kind.dir x.addr)
  | .relOk => .ended
  | .relFail => .ended

/-- What the receive buffer holds in a phase of the transaction `x` (rule R26). -/
def RxIn (x : Txn) (rx : Nine (Option Byte)) : SubPhase → Prop
  | .sel => True
  | .cmd => rx = Nine.const none
  | .pay => rx = Nine.const none
  | .relOk => rxFilled x.kind rx = true
  | .relFail => rx = Nine.const none

/-- The invariant in phase `p` of the running transaction `x`. -/
structure BusyInv (s : State) (k : TxnIndex) (p : SubPhase) (x : Txn) : Prop where
  sel : s.sel = selFor (.busy k p)
  bus : busScan s.params .released s.trace = some (busIn x p)
  rx : RxIn x s.rx p
  resp : s.resp = Response.empty
  dev : cellsWf s.dev = true

/-- The invariant at an idle engine. -/
structure IdleInv (s : State) : Prop where
  sel : s.sel = .deasserted
  bus : busScan s.params .released s.trace = some .released
  resp : respShape s.resp = true
  dev : cellsWf s.dev = true

theorem idleInv_of_inv {s : State} (inv : Inv s) (idle : s.phase = .idle) : IdleInv s where
  sel := by simpa [idle, selFor] using inv.sel
  bus := by simpa [busFor, idle] using inv.bus
  resp := by simpa [respFor, idle] using inv.resp
  dev := inv.dev

theorem IdleInv.inv {s : State} (here : IdleInv s) (idle : s.phase = .idle) : Inv s where
  sel := by simpa [idle, selFor] using here.sel
  txn := by simp [txnFor, idle]
  bus := by simpa [busFor, idle] using here.bus
  rx := by simp [rxFor, idle]
  resp := by simpa [respFor, idle] using here.resp
  dev := here.dev

section busy
variable {s t : State} {w : ReqWord} {i : Instr} {k : TxnIndex} {p : SubPhase} {x : Txn}

theorem runningTxn_eq (hw : s.req = some w) (hi : decode w = some i) (k : TxnIndex) :
    runningTxn s k = transaction s.params i k := by
  simp only [runningTxn, hw, hi]

theorem busFor_busy (busy : s.phase = .busy k p) (hx : runningTxn s k = some x) : busFor s = some (busIn x p) := by
  cases p <;> simp [busFor, busy, hx, busIn]

theorem rxFor_busy (busy : s.phase = .busy k p) (hx : runningTxn s k = some x) : rxFor s = true ↔ RxIn x s.rx p := by
  cases p <;> simp [rxFor, busy, hx, RxIn]

theorem busyInv_of_inv (inv : Inv s) (busy : s.phase = .busy k p) (hw : s.req = some w) (hi : decode w = some i)
    (hx : transaction s.params i k = some x) : BusyInv s k p x :=
  have running : runningTxn s k = some x := (runningTxn_eq hw hi k).trans hx
  { sel := busy ▸ inv.sel
    bus := inv.bus.trans (busFor_busy busy running)
    rx := (rxFor_busy busy running).mp inv.rx
    resp := by simpa [respFor, busy] using inv.resp
    dev := inv.dev }

theorem BusyInv.inv (here : BusyInv s k p x) (busy : s.phase = .busy k p) (hw : s.req = some w)
    (hi : decode w = some i) (hx : transaction s.params i k = some x) : Inv s :=
  have running : runningTxn s k = some x := (runningTxn_eq hw hi k).trans hx
  { sel := busy ▸ here.sel
    txn := by simp [txnFor, busy, running]
    bus := here.bus.trans (busFor_busy busy running).symm
    rx := (rxFor_busy busy running).mpr here.rx
    resp := by simpa [respFor, busy] using here.resp
    dev := here.dev }

/-- In a busy phase the latched request names the running transaction (rules R25, R27). -/
theorem exists_running_of_inv (inv : Inv s) (busy : s.phase = .busy k p) :
    ∃ w i x, s.req = some w ∧ decode w = some i ∧ transaction s.params i k = some x := by
  have txn : (runningTxn s k).isSome = true := by simpa [txnFor, busy] using inv.txn
  cases hw : s.req with
  | none => simp [runningTxn, hw] at txn
  | some w =>
    cases hi : decode w with
    | none => simp [runningTxn, hw, hi] at txn
    | some i =>
      rw [runningTxn_eq hw hi] at txn
      obtain ⟨x, hx⟩ := Option.isSome_iff_exists.mp txn
      exact ⟨w, i, x, rfl, hi, hx⟩

/-! The transfers, on the bus and in the buffer. -/

/-- Scanning one event more. -/
theorem busScan_snoc {q : Params} {b b' c : Bus} {l : List Event} {e : Event} (h : busScan q b l = some b')
    (next : busNext q b' e = some c) : busScan q b (l ++ [e]) = some c := by
  rw [busScan_append, h]
  simp only [busScan, next]

theorem State.command_trace (s : State) (x : Txn) :
    (s.command x).2.trace = s.trace ++ [.tx [commandByte x.kind.dir x.addr] (s.command x).1] := by
  simp [State.command, State.transmit]

theorem State.command_rx (s : State) (x : Txn) : (s.command x).2.rx = s.rx := by
  simp [State.command, State.transmit]

/-- The one nine-byte frame reads `DATA_BASE` (rule R113). -/
theorem transaction_burst_addr {q : Params} (hx : transaction q i k = some x) (hk : x.kind = .r9) :
    x.addr = q.dataAddr := by
  cases i
  case rdxyz =>
    cases k <;> cases hx
    rfl
  all_goals cases k <;> cases hx <;> cases hk

/-- A receive after its read command ends the frame (rules R88, R113). -/
theorem busNext_receive {q : Params} {x : Txn} {n : RxLen} {st : Status} {bs : Option (List Byte)}
    (read : x.kind.dir = .read) (len : n = .one ∨ n = .nine ∧ x.addr = q.dataAddr)
    (shape : rxShape n.toNat st bs = true) :
    busNext q (.commanded (commandByte x.kind.dir x.addr)) (.rx n.toNat st bs) = some .ended := by
  have length : n.toNat = 1 ∨ n.toNat = 9 ∧ x.addr = q.dataAddr := by
    rcases len with rfl | ⟨rfl, h⟩
    · exact .inl rfl
    · exact .inr ⟨rfl, h⟩
  simp [busNext, read, length, shape]

theorem State.receive_event {s : State} (n : RxLen) :
    ∃ bs, (s.receive n).2.trace = s.trace ++ [.rx n.toNat (s.receive n).1 bs] ∧
      rxShape n.toNat (s.receive n).1 bs = true := by
  cases h : (s.answerAt 0).status
  · rw [s.receive_ok n h]
    refine ⟨some (n.take (s.deviceBytes (s.answerAt 0).bytes)), by simp, ?_⟩
    cases n <;> rfl
  · rw [s.receive_fail n h]
    exact ⟨none, by simp, rfl⟩

/-- The payload of a transaction ends its frame (rules R88, R112, R113). -/
theorem State.payload_event (s : State) {q : Params} (hx : transaction q i k = some x) :
    ∃ e, (s.payload x).2.trace = s.trace ++ [e] ∧
      busNext q (.commanded (commandByte x.kind.dir x.addr)) e = some .ended := by
  have burst := transaction_burst_addr hx
  cases hk : x.kind
  · refine ⟨.tx [x.value] (s.transmit x.value).1, by simp [State.payload, hk, State.transmit], ?_⟩
    simp [busNext, Kind.dir]
  · obtain ⟨bs, trace, shape⟩ := s.receive_event .one
    exact ⟨_, by simpa only [State.payload, hk] using trace, hk ▸ busNext_receive (by rw [hk]; rfl) (.inl rfl) shape⟩
  · obtain ⟨bs, trace, shape⟩ := s.receive_event .nine
    exact ⟨_, by simpa only [State.payload, hk] using trace,
      hk ▸ busNext_receive (by rw [hk]; rfl) (.inr ⟨rfl, burst hk⟩) shape⟩

theorem State.receive_rx {s : State} (n : RxLen) (empty : s.rx = Nine.const none) :
    (s.receive n).1 = .ok ∧ (∃ bs, (s.receive n).2.rx = rxAfter n bs) ∨
      (s.receive n).1 = .fail ∧ (s.receive n).2.rx = Nine.const none := by
  cases h : (s.answerAt 0).status
  · left
    rw [s.receive_ok n h]
    refine ⟨rfl, s.deviceBytes (s.answerAt 0).bytes, ?_⟩
    cases n <;> simp [State.putRx, rxAfter, rxOne, empty]
  · right
    rw [s.receive_fail n h]
    exact ⟨rfl, by simp [empty]⟩

/-- A payload that returned `OK` leaves the buffer of its frame, one that failed an empty one (rule R26). -/
theorem State.payload_rx {s : State} (x : Txn) (empty : s.rx = Nine.const none) :
    (s.payload x).1 = .ok ∧ rxFilled x.kind (s.payload x).2.rx = true ∨
      (s.payload x).1 = .fail ∧ (s.payload x).2.rx = Nine.const none := by
  cases hk : x.kind
  · have unchanged : (s.payload x).2.rx = Nine.const none := by simp [State.payload, hk, State.transmit, empty]
    cases h : (s.payload x).1
    · exact .inl ⟨rfl, by simp [unchanged, rxFilled]⟩
    · exact .inr ⟨rfl, unchanged⟩
  · simp only [State.payload, hk]
    exact (State.receive_rx .one empty).imp_left fun ⟨ok, bs, rx⟩ =>
      ⟨ok, by simp [rx, rxAfter, rxOne, rxFilled, Nine.const]⟩
  · simp only [State.payload, hk]
    exact (State.receive_rx .nine empty).imp_left fun ⟨ok, bs, rx⟩ =>
      ⟨ok, by simp [rx, rxAfter, rxFilled, Nine.map, fullBuffer]⟩

/-! The rows. -/

/-- A transfer keeps the invariant when it leads from its place on the bus to that of the phase it enters, and leaves
the buffer as that phase has it. -/
theorem inv_afterTransfer {r : Status × State} {onOk : SubPhase} (frame : TransferFrame s r.2)
    (inv : BusyInv s k p x) (asserted : selFor (.busy k p) = .asserted)
    (hw : s.req = some w) (hi : decode w = some i) (hx : transaction s.params i k = some x)
    (enters : r.1 = .ok ∧ selFor (.busy k onOk) = .asserted ∧
        busScan s.params .released r.2.trace = some (busIn x onOk) ∧ RxIn x r.2.rx onOk ∨
      r.1 = .fail ∧ busScan s.params .released r.2.trace = some .ended ∧ r.2.rx = Nine.const none) :
    Inv (State.afterTransfer r k onOk) := by
  have sel : r.2.sel = .asserted := frame.sel.trans (inv.sel.trans asserted)
  have req := frame.req.trans hw
  have txn : transaction r.2.params i k = some x := frame.params ▸ hx
  have resp := frame.resp.trans inv.resp
  have dev := frame.dev inv.dev
  rw [State.afterTransfer_eq]
  rcases enters with ⟨ok, line, bus, rx⟩ | ⟨failed, bus, rx⟩
  · rw [ok]
    exact BusyInv.inv ⟨sel.trans line.symm, frame.params ▸ bus, rx, resp, dev⟩ rfl req hi txn
  · rw [failed]
    exact BusyInv.inv (p := .relFail) ⟨sel, frame.params ▸ bus, rx, resp, dev⟩ rfl req hi txn

/-- Select released after a frame, and the operation completed. -/
theorem inv_complete {r : Response} (inv : BusyInv s k p x) (ended : busIn x p = .ended) (shape : respShape r = true) :
    Inv (s.selDeassert.complete r) :=
  IdleInv.inv ⟨rfl, busScan_snoc (ended ▸ inv.bus) rfl, shape, inv.dev⟩ rfl

/-- Every row of rule R116 keeps the invariant. -/
theorem busyStep_keeps_inv (inv : Inv s) (busy : s.phase = .busy k p) (h : busyStep k p s = .next t) : Inv t := by
  obtain ⟨w, i, x, hw, hi, hx, row⟩ := busyStep_next h
  have here := busyInv_of_inv inv busy hw hi hx
  rcases row with ⟨rfl, rfl⟩ | ⟨rfl, rfl⟩ | ⟨rfl, rfl⟩ | ⟨rfl, rfl, ⟨y, hy⟩, rfl⟩ | ⟨rfl, eval⟩ | ⟨rfl, rfl⟩
  · exact BusyInv.inv (p := .cmd) ⟨rfl, busScan_snoc here.bus rfl, rfl, here.resp, here.dev⟩ rfl hw hi hx
  · refine inv_afterTransfer (s.command_frame x) here rfl hw hi hx ?_
    have rx : (s.command x).2.rx = Nine.const none := (s.command_rx x).trans here.rx
    rw [s.command_trace]
    cases (s.command x).1
    · exact .inl ⟨rfl, rfl, busScan_snoc here.bus rfl, rx⟩
    · exact .inr ⟨rfl, busScan_snoc here.bus rfl, rx⟩
  · refine inv_afterTransfer (s.payload_frame x) here rfl hw hi hx ?_
    obtain ⟨e, trace, ends⟩ := s.payload_event hx
    have bus := trace ▸ busScan_snoc here.bus ends
    exact (State.payload_rx x here.rx).imp (fun ⟨ok, rx⟩ => ⟨ok, rfl, bus, rx⟩) (fun ⟨failed, rx⟩ => ⟨failed, bus, rx⟩)
  · exact BusyInv.inv (p := .sel) ⟨rfl, busScan_snoc here.bus rfl, trivial, here.resp, here.dev⟩ rfl hw hi hy
  · obtain ⟨r, rfl, shape, -⟩ := evalOp_next eval
    exact inv_complete here rfl shape
  · exact inv_complete here rfl (respShape_ofResult_failResult i)

/-- A completion over the buffer of the operation's last frame reads no byte that holds no value (rules R24, R116). -/
theorem evalOp_answers (hx : transaction s.params i k = some x) (last : k = .two ∨ transaction s.params i .two = none)
    (filled : rxFilled x.kind s.rx = true) : ∃ t, evalOp i s = .next t := by
  have of_byte : x.kind = .r1 → ∃ b, s.rx.b0 = some b := by
    intro hk
    rw [hk, rxFilled, Bool.and_eq_true] at filled
    exact Option.isSome_iff_exists.mp filled.1
  cases i
  case wrreg => exact ⟨_, rfl⟩
  case rdxyz =>
    cases k <;> cases hx
    obtain ⟨bs, hbs⟩ := Option.isSome_iff_exists.mp filled
    exact ⟨_, by simp only [evalOp, hbs]; rfl⟩
  case rdreg | chkid =>
    cases k <;> cases hx
    obtain ⟨b, hb⟩ := of_byte rfl
    exact ⟨_, by simp only [evalOp, hb]; rfl⟩
  case setodr | setrng | setmeas =>
    obtain rfl : k = .two := last.resolve_right nofun
    cases hx
    obtain ⟨b, hb⟩ := of_byte rfl
    exact ⟨_, by simp only [evalOp, hb]; rfl⟩

end busy
end Sys2Proof.Machine

namespace Sys2Proof.Invariants

open Sys2Proof.Machine Sys2Proof.Safety Sys2Proof.Sequencer

/-- Moves of the host that present nothing touch no field of which the invariant speaks. -/
theorem inv_of_hostMove {s : State} (inv : Safety.Inv s) (l : List HostMove) (m : List HostEvent) :
    Safety.Inv { s with port := l, hostLog := m } :=
  ⟨inv.sel, inv.txn, inv.bus, inv.rx, inv.resp, inv.dev⟩

theorem inv_takeRequest {s : State} {w : ReqWord} {i : Instr} (inv : Safety.Inv s) (idle : s.phase = .idle)
    (l : List HostMove) (hi : decode w = some i) : Safety.Inv ({ s with port := l }.takeRequest w) := by
  obtain ⟨x, hx⟩ := transaction_one_exists s.params i
  have here := idleInv_of_inv inv idle
  exact BusyInv.inv (p := .sel) ⟨here.sel, here.bus, trivial, rfl, here.dev⟩ rfl rfl hi hx

theorem eventStep_keeps_inv {s t : State} (inv : Safety.Inv s) (h : eventStep s = .next t) : Safety.Inv t := by
  rcases eventStep_cases h with ⟨_, _, busy, row⟩ | ⟨idle, ⟨_, rest, _, -, hi, rfl⟩ | ⟨l, m, rfl⟩⟩
  · exact busyStep_keeps_inv inv busy row
  · exact inv_takeRequest inv idle rest hi
  · exact inv_of_hostMove inv l m

theorem eventRun_keeps_inv {n : Nat} {s t : State} (inv : Safety.Inv s) (h : eventRun n s = .next t) :
    Safety.Inv t := by
  induction n generalizing s with
  | zero => exact Host.Outcome.next.inj h ▸ inv
  | succ n ih =>
    rw [eventRun] at h
    split at h
    · rename_i u step
      exact ih (eventStep_keeps_inv inv step) h
    · cases h
    · cases h

/-- Settles O53: the rows of rule R116 and the host's moves, each from what the invariant says in its phase. -/
theorem eventStepKeepsTheInvariant : Obligations.EventStepKeepsTheInvariant := fun _ _ => eventStep_keeps_inv

/-- Settles O54: an operation reaches the state of a run of event steps, each of which keeps the invariant. -/
theorem stepKeepsTheInvariant : Obligations.StepKeepsTheInvariant := by
  intro s t inv h
  rcases step_cases h with ⟨_, _, busy, row⟩ | ⟨idle, ⟨w, rest, i, hp, hi, -⟩ | ⟨l, m, rfl⟩⟩
  · exact busyStep_keeps_inv inv busy row
  · obtain ⟨n, u, -, run, stepped⟩ := sequencerRefinesTheOperation s w rest i idle hp hi
    obtain rfl : u = t := Host.Outcome.next.inj (stepped.symm.trans h)
    exact eventRun_keeps_inv inv run
  · exact inv_of_hostMove inv l m

/-- Settles O52: the engine is idle, the trace is empty and no field of the response holds a value. -/
theorem resetMeetsTheInvariant : Obligations.ResetMeetsTheInvariant :=
  IdleInv.inv ⟨rfl, rfl, rfl, cellsWf_reset⟩ rfl

/-- Settles O50: the running transaction gives a row, and the buffer of the last frame gives a completion. -/
theorem busyEngineIsNeverStuck : Obligations.BusyEngineIsNeverStuck := by
  intro s inv not_idle
  cases busy : s.phase with
  | idle => exact absurd busy not_idle
  | busy k p =>
    obtain ⟨w, i, x, hw, hi, hx⟩ := exists_running_of_inv inv busy
    have here := busyInv_of_inv inv busy hw hi hx
    rw [eventStep_row busy hw hi hx]
    cases p
    case relOk =>
      have completes : k = .two ∨ transaction s.params i .two = none → ∃ t, evalOp i s.selDeassert = .next t :=
        fun last => evalOp_answers (s := s.selDeassert) hx last here.rx
      change ∃ t, releaseOk i k s = .next t
      unfold releaseOk
      split
      · exact ⟨_, rfl⟩
      · rename_i only
        exact completes (.inr only)
      · exact completes (.inl rfl)
    all_goals exact ⟨_, rfl⟩

end Sys2Proof.Invariants
end

section
/-! PROOFS. What an operation counts up to and leaves behind (rules R23, R114, R214, R238): its events and transfers, by
the transfer that failed or with none failed, and the fields its response holds. -/

namespace Sys2Proof.Exceptions

open Sys2Proof.Machine Sys2Proof.Safety

/-- The transfers and events of a run of `i` from `s` to `t`: up to the first transfer that failed, or all of them. -/
inductive Tally (i : Instr) (s t : State) : Prop
  | stopped (n : Nat) (ev : List Event) (rx : Nine (Option Byte)) (within : n < transferCount i)
      (ran : RanAs s t (n + 1) ev (Response.ofResult (failResult i)) rx)
      (failed : statusAt s n = .fail) (before : ∀ j, j < n → statusAt s j = .ok)
      (count : (ev.filter isTransfer).length = n + 1) (last : ev.getLast? = some .selD)
  | finished (ev : List Event) (r : Response) (rx : Nine (Option Byte)) (ran : RanAs s t (transferCount i) ev r rx)
      (ok : ∀ k, k < transferCount i → statusAt s k = .ok) (length : ev.length = 2 * transferCount i)
      (count : (ev.filter isTransfer).length = transferCount i)
      (sent : (ev.map bytesSent).sum = sentCount i) (received : (ev.map bytesReceived).sum = receivedCount i)

section tally
variable {i : Instr} {s t : State}

/-- A frame with a payload has two transfers (rules R14, R88). -/
theorem frame_transfers (c : Byte) (st : Status) {e : Event} (payload : isTransfer e = true) :
    (List.filter isTransfer [.selA, .tx [c] st, e, .selD]).length = 2 := by
  rw [List.filter_cons_of_neg Bool.false_ne_true, List.filter_cons_of_pos rfl, List.filter_cons_of_pos payload,
    List.filter_cons_of_neg Bool.false_ne_true, List.filter_nil]
  rfl

/-- The three rows of an operation of one transaction; `e` is its payload event, `e'` that of a failed payload. -/
theorem Tally.of_two_transfers {c : Byte} {e e' : Event} {r : Response} {rx : Nine (Option Byte)}
    (two : transferCount i = 2)
    (command_failed : statusAt s 0 = .fail →
      RanAs s t 1 [.selA, .tx [c] .fail, .selD] (Response.ofResult (failResult i)) (Nine.const none))
    (payload_failed : statusAt s 0 = .ok → statusAt s 1 = .fail →
      RanAs s t 2 [.selA, .tx [c] .ok, e', .selD] (Response.ofResult (failResult i)) (Nine.const none))
    (ran : statusAt s 0 = .ok → statusAt s 1 = .ok → RanAs s t 2 [.selA, .tx [c] .ok, e, .selD] r rx)
    (transfers : isTransfer e = true ∧ isTransfer e' = true) (sent : 1 + bytesSent e = sentCount i)
    (received : bytesReceived e = receivedCount i) : Tally i s t := by
  have sum_sent : (List.map bytesSent [.selA, .tx [c] .ok, e, .selD]).sum = 0 + (1 + (bytesSent e + (0 + 0))) := rfl
  have sum_received : (List.map bytesReceived [.selA, .tx [c] .ok, e, .selD]).sum =
    0 + (0 + (bytesReceived e + (0 + 0))) := rfl
  cases h0 : statusAt s 0
  · cases h1 : statusAt s 1
    · exact .finished _ _ _ (two ▸ ran h0 h1) (two ▸ ok_below_two h0 h1) (by rw [two]; rfl)
        (two ▸ frame_transfers c .ok transfers.1) (by omega) (by omega)
    · refine .stopped 1 _ _ (by omega) (payload_failed h0 h1) h1 ?_ (frame_transfers c .ok transfers.2) rfl
      intro j hj
      rwa [Nat.lt_one_iff.mp hj]
  · exact .stopped 0 _ _ (by omega) (command_failed h0) h0 nofun rfl rfl

/-- The five rows of `SetVerify` (rule R146). -/
theorem Tally.of_setVerifyRuns {o : Host.Outcome State Fault Refusal} {a : RegAddr} {v : Byte}
    (four : transferCount i = 4) (bus_error : failResult i = .busError) (sent : sentCount i = 3)
    (received : receivedCount i = 1) (runs : SetVerifyRuns s o a v) : ∃ t, o = .next t ∧ Tally i s t := by
  obtain ⟨t, ht, failed₀, failed₁, failed₂, failed₃, ran⟩ := runs
  refine ⟨t, ht, ?_⟩
  cases h0 : statusAt s 0
  case fail => exact .stopped 0 _ _ (by omega) (bus_error ▸ failed₀ h0) h0 nofun rfl rfl
  cases h1 : statusAt s 1
  case fail =>
    exact .stopped 1 _ _ (by omega) (bus_error ▸ failed₁ h0 h1) h1 (by intro j hj; interval_cases j; exact h0) rfl rfl
  cases h2 : statusAt s 2
  case fail =>
    exact .stopped 2 _ _ (by omega) (bus_error ▸ failed₂ h0 h1 h2) h2 (ok_below_two h0 h1) rfl rfl
  cases h3 : statusAt s 3
  case fail =>
    exact .stopped 3 _ _ (by omega) (bus_error ▸ failed₃ h0 h1 h2 h3) h3
      (by intro j hj; interval_cases j <;> assumption) rfl rfl
  obtain ⟨b, -, -, whole⟩ := ran h0 h1 h2 h3
  exact .finished _ _ _ (four ▸ whole) (by rw [four]; intro k hk; interval_cases k <;> assumption) (four ▸ rfl)
    (four ▸ rfl) (Eq.trans (b := 3) rfl sent.symm) (Eq.trans (b := 1) rfl received.symm)

theorem exec_tally (i : Instr) (s : State) : ∃ t, exec i s = .next t ∧ Tally i s t := by
  cases i with
  | wrreg a d =>
    obtain ⟨-, t, ht, command_failed, payload_failed, ran⟩ := RegisterAccess.writeRegisterRuns a d s
    exact ⟨t, ht, .of_two_transfers rfl command_failed payload_failed ran ⟨rfl, rfl⟩ rfl rfl⟩
  | rdreg a =>
    obtain ⟨-, t, ht, command_failed, payload_failed, ran⟩ := RegisterAccess.readRegisterRuns a s
    exact ⟨t, ht, .of_two_transfers rfl command_failed payload_failed ran ⟨rfl, rfl⟩ rfl rfl⟩
  | setodr d => exact Tally.of_setVerifyRuns rfl rfl rfl rfl (Configuration.setDataRateRuns d s).2
  | setrng d => exact Tally.of_setVerifyRuns rfl rfl rfl rfl (Configuration.setRangeRuns d s).2
  | setmeas => exact Tally.of_setVerifyRuns rfl rfl rfl rfl (Configuration.setMeasureRuns s).2
  | chkid =>
    obtain ⟨-, t, ht, command_failed, payload_failed, ran⟩ := Identity.checkIdentityRuns s
    exact ⟨t, ht, .of_two_transfers rfl command_failed payload_failed ran ⟨rfl, rfl⟩ rfl rfl⟩
  | rdxyz =>
    obtain ⟨-, t, ht, command_failed, payload_failed, ran⟩ := Burst.burstRuns s
    exact ⟨t, ht, .of_two_transfers rfl command_failed payload_failed ran ⟨rfl, rfl⟩ rfl rfl⟩

theorem failResult_eq_ite (i : Instr) : failResult i = if i = .chkid then .identityMismatch else .busError := by
  by_cases h : i = .chkid
  · rw [if_pos h, h, failResult_chkid]
  · rw [if_neg h, failResult_of_ne_chkid h]

/-- Two transfers that are the first to fail are one. -/
theorem first_fail_unique {n k : Nat} (hn : statusAt s n = .fail) (before_n : ∀ j, j < n → statusAt s j = .ok)
    (hk : statusAt s k = .fail) (before_k : ∀ j, j < k → statusAt s j = .ok) : n = k := by
  rcases Nat.lt_trichotomy n k with h | h | h
  · cases hn.symm.trans (before_k n h)
  · exact h
  · cases hk.symm.trans (before_n k h)

end tally

/-- Settles O27: the transfer that stopped the operation is the first that failed. -/
theorem failureInjectedAnywhere : Obligations.FailureInjectedAnywhere := by
  intro i s k hk before failed
  obtain ⟨t, ht, tally⟩ := exec_tally i s
  cases tally with
  | stopped n ev rx _ ran failed_n before_n count last =>
    obtain rfl : n = k := first_fail_unique failed_n before_n failed before
    exact ⟨t, ev, ht, ran.trace, failResult_eq_ite i ▸ ran.resp, count, last, ran.sel, ran.phase⟩
  | finished _ _ _ _ ok => cases failed.symm.trans (ok k hk)

/-- Settles O28: with no transfer failed, none stopped the operation. -/
theorem eventCountsWithoutFailure : Obligations.EventCountsWithoutFailure := by
  intro i s all_ok
  obtain ⟨t, ht, tally⟩ := exec_tally i s
  cases tally with
  | stopped n _ _ within _ failed => cases failed.symm.trans (all_ok n within)
  | finished ev _ _ ran _ length count sent received => exact ⟨t, ev, ht, ran.trace, length, count, sent, received⟩

/-- Settles O30: the frame is that of `RanAs`, and an operation stopped early used fewer answers. -/
theorem operationsLeaveTheRestAlone : Obligations.OperationsLeaveTheRestAlone := by
  intro i s t h
  obtain ⟨u, hu, tally⟩ := exec_tally i s
  obtain rfl : u = t := Host.Outcome.next.inj (hu.symm.trans h)
  obtain ⟨n, ev, r, rx, ran, hn⟩ : ∃ n ev r rx, RanAs s u n ev r rx ∧ n ≤ transferCount i := by
    cases tally with
    | stopped n ev rx within ran => exact ⟨n + 1, ev, _, rx, ran, within⟩
    | finished ev r rx ran => exact ⟨_, ev, r, rx, ran, le_rfl⟩
  exact ⟨ran.req, ran.handle, ran.params, ran.port, ran.devMode, ev, n, ran.trace, ran.answers, hn⟩

/-! The fields a response holds (rule R23). -/

/-- The fields that hold a value in the response of `i`. -/
def HoldsFields (i : Instr) (r : Response) : Prop :=
  r.result.isSome = true ∧
    (r.rdata.isSome = true ↔ r.result = some .success ∧ ∃ a, i = .rdreg a) ∧
    (r.x.isSome = true ↔ r.result = some .success ∧ i = .rdxyz) ∧
    (r.y.isSome = true ↔ r.result = some .success ∧ i = .rdxyz) ∧
    (r.z.isSome = true ↔ r.result = some .success ∧ i = .rdxyz)

theorem failResult_ne_success (i : Instr) : failResult i ≠ .success := by cases i <;> nofun

/-- An operation that returns no value, or fails, has its result alone. -/
theorem holdsFields_ofResult {i : Instr} {r : Result} (h : r = .success → (∀ a, i ≠ .rdreg a) ∧ i ≠ .rdxyz) :
    HoldsFields i (Response.ofResult r) := by
  have no_byte : ¬ (r = .success ∧ ∃ a, i = .rdreg a) := fun ⟨hr, a, hi⟩ => (h hr).1 a hi
  have no_axis : ¬ (r = .success ∧ i = .rdxyz) := fun ⟨hr, hi⟩ => (h hr).2 hi
  simpa [HoldsFields, Response.ofResult, no_axis] using no_byte

theorem evalOp_holdsFields {i : Instr} {s t : State} (h : evalOp i s = .next t) : HoldsFields i t.resp := by
  cases i <;> simp only [evalOp] at h
  case wrreg =>
    cases h
    exact holdsFields_ofResult fun _ => ⟨nofun, nofun⟩
  case rdreg =>
    split at h <;> cases h
    simp [HoldsFields, Response.ofByte]
  case rdxyz =>
    split at h <;> cases h
    simp [HoldsFields, burstResponse, Response.ofAxes]
  all_goals
    split at h <;> cases h
    exact holdsFields_ofResult fun _ => ⟨nofun, nofun⟩

/-- An operation ends at a failed transaction or with the completion of the table (rules R116, R201). -/
theorem exec_fails_or_evaluates {i : Instr} {s t : State} (h : exec i s = .next t) :
    t.resp = Response.ofResult (failResult i) ∨ ∃ v, v.params = s.params ∧ evalOp i v = .next t := by
  obtain ⟨x, hx⟩ := transaction_one_exists s.params i
  rcases e : s.runTxn x with ⟨_ | _, u⟩
  · cases second : transaction s.params i .two with
    | none => exact .inr ⟨u, State.runTxn_params e, exec_of_only_ok hx second e ▸ h⟩
    | some y =>
      rcases f : u.runTxn y with ⟨_ | _, v⟩
      · exact .inr ⟨v, (State.runTxn_params f).trans (State.runTxn_params e), exec_of_second_ok hx second e f ▸ h⟩
      · rw [exec_of_second_fail hx second e f] at h
        exact .inl (congrArg State.resp (Host.Outcome.next.inj h)).symm
  · rw [exec_of_first_fail hx e] at h
    exact .inl (congrArg State.resp (Host.Outcome.next.inj h)).symm

/-- Settles O25: a failed transfer leaves the result alone, and each completion writes its own fields. -/
theorem responseFieldsAfterCompletion : Obligations.ResponseFieldsAfterCompletion := by
  intro i s
  obtain ⟨t, ht⟩ := exec_answers_next i s
  refine ⟨t, ht, ?_⟩
  change HoldsFields i t.resp
  rcases exec_fails_or_evaluates ht with resp | ⟨v, -, eval⟩
  · rw [resp]
    exact holdsFields_ofResult fun success => absurd success (failResult_ne_success i)
  · exact evalOp_holdsFields eval

end Sys2Proof.Exceptions
end

section
/-! PROOFS. The device's register space (20_memory.md): an operation writes at most the register it targets (rules R51,
R62), what a failed write leaves (rule R64), and the round trip of the ideal device. -/

namespace Sys2Proof.Device

open Sys2Proof.Machine Sys2Proof.Safety

theorem dev_eq_of_no_target {i : Instr} {s t : State} (h : exec i s = .next t)
    (none_written : writeTarget s.params i = none) : t.dev = s.dev := by
  rcases exec_dev i s t h with same | ⟨-, a, x, target, -⟩
  · exact same
  · cases none_written.symm.trans target

/-- Settles O32: an operation that targets no register, or has an oracle on the bus, leaves the cells as they are. -/
theorem readsLeaveTheDeviceAlone : Obligations.ReadsLeaveTheDeviceAlone := by
  constructor
  · intro i s t reads h b
    have none_written : writeTarget s.params i = none := by
      rcases reads with rfl | rfl | ⟨a, rfl⟩ <;> rfl
    rw [dev_eq_of_no_target h none_written]
  · intro i s t oracle h b
    rcases exec_dev i s t h with same | ⟨ideal, -⟩
    · rw [same]
    · cases oracle.symm.trans ideal

theorem cellsRead_of_not_target {i : Instr} {s t : State} {a : RegAddr} (target : writeTarget s.params i = some a)
    (h : exec i s = .next t) (b : Nat) (ne : b ≠ a.toNat) : cellsRead t.dev b = cellsRead s.dev b := by
  rcases exec_dev i s t h with same | ⟨-, a', x, target', written⟩
  · rw [same]
  · obtain rfl : a = a' := Option.some.inj (target.symm.trans target')
    rw [written, cellsRead_write_ne s.dev ne x]

/-- Settles O33: the register an operation targets is its operand's or its parameter's. -/
theorem writesChangeOneDeviceByte : Obligations.WritesChangeOneDeviceByte :=
  ⟨fun _ _ _ _ => cellsRead_of_not_target rfl, fun _ _ _ => cellsRead_of_not_target rfl,
    fun _ _ _ => cellsRead_of_not_target rfl, fun _ _ => cellsRead_of_not_target rfl⟩

theorem exec_wrreg_dev_of_ok {a : RegAddr} {d : Byte} {s : State} (ideal : s.devMode = .ideal)
    (h0 : statusAt s 0 = .ok) (h1 : statusAt s 1 = .ok) :
    ∃ t, exec (.wrreg a d) s = .next t ∧ t.dev = cellsWrite s.dev a.toNat d := by
  obtain ⟨u, hu, -⟩ := s.runTxn_ran_write a d h0
  have stored := s.runTxn_write_dev a d ideal h0 h1
  rw [h1] at hu
  rw [hu] at stored
  exact ⟨_, exec_wrreg_of_ok hu, stored⟩

/-- Settles O34: the ideal device stores the byte, and a read after a write gives it. -/
theorem idealDeviceTakesTheWrite : Obligations.IdealDeviceTakesTheWrite := by
  intro a d s ideal wf h0 h1
  obtain ⟨t, ht, stored⟩ := exec_wrreg_dev_of_ok (a := a) (d := d) ideal h0 h1
  exact ⟨t, ht, by rw [stored, cellsRead_write_self wf]⟩

/-! Failed writes (rule R64). -/

/-- A write whose command failed leaves the free value in the addressed register. -/
theorem runTxn_write_dev_of_command_fail {s : State} (a : RegAddr) (v : Byte) (ideal : s.devMode = .ideal)
    (h0 : statusAt s 0 = .fail) :
    (s.runTxn (Txn.write a v)).2.dev = cellsWrite s.dev a.toNat (Config.devContent s.draws) := by
  have selected : s.clearRx.selAssert.devMode = .ideal := ideal
  have scrambled := State.deviceTx_command_fail s.clearRx.selAssert.dropAnswer (commandByte .write a) (by simpa)
    (by simp) (commandDir_commandByte .write a)
  rw [s.runTxn_command_fail (Txn.write a v) h0, State.selDeassert_dev, State.logTx_dev]
  refine (congrArg State.dev scrambled).trans ?_
  simp [State.dropAnswer_draws_ideal _ selected]

/-- A write whose value failed leaves the free value in the addressed register. -/
theorem runTxn_write_dev_of_value_fail {s : State} (a : RegAddr) (v : Byte) (ideal : s.devMode = .ideal)
    (h0 : statusAt s 0 = .ok) (h1 : statusAt s 1 = .fail) :
    (s.runTxn (Txn.write a v)).2.dev = cellsWrite s.dev a.toNat (Config.devContent s.draws) := by
  have selected : s.clearRx.selAssert.devMode = .ideal := ideal
  have mode : (s.commanded (Txn.write a v)).devMode = .ideal := by simp [State.commanded, ideal]
  have draws : (s.commanded (Txn.write a v)).draws = s.draws := by
    rw [State.commanded, State.logTx_draws, State.deviceTx_command _ _ (by simpa) (by simp)]
    exact State.dropAnswer_draws_ideal _ selected
  have failed : ((s.commanded (Txn.write a v)).answerAt 0).status = .fail :=
    (congrArg Answer.status (s.commanded_answerAt _ 0)).trans h1
  have taken : (s.commanded (Txn.write a v)).dropAnswer.devCmd = some (commandByte .write a) :=
    (State.dropAnswer_devCmd _).trans (s.commanded_devCmd _ ideal)
  rw [s.runTxn_command_ok (Txn.write a v) h0, State.selDeassert_dev]
  change ((s.commanded (Txn.write a v)).transmit v).2.dev = _
  rw [State.transmit, State.logTx_dev, failed,
    State.deviceTx_value_fail _ _ _ (by simpa) taken (commandDir_commandByte .write a)]
  simp [State.commanded_dev, State.dropAnswer_draws_ideal _ mode, draws]

/-- Settles O35: the transmit that failed scrambles the addressed register, and the write ends with BusError. -/
theorem failedWriteLeavesAFreeValue : Obligations.FailedWriteLeavesAFreeValue := by
  intro a d s ideal wf failed
  obtain ⟨u, hu, scrambled⟩ : ∃ u, s.memWrite a d = (.fail, u) ∧
      u.dev = cellsWrite s.dev a.toNat (Config.devContent s.draws) := by
    cases h0 : statusAt s 0
    · have h1 : statusAt s 1 = .fail := failed.resolve_left (by rw [h0]; nofun)
      obtain ⟨u, hu, -⟩ := s.runTxn_ran_write a d h0
      rw [h1] at hu
      have scrambled := runTxn_write_dev_of_value_fail a d ideal h0 h1
      rw [hu] at scrambled
      exact ⟨u, hu, scrambled⟩
    · obtain ⟨u, hu, -⟩ := s.runTxn_ran_command_fail (Txn.write a d) h0
      have scrambled := runTxn_write_dev_of_command_fail a d ideal h0
      rw [hu] at scrambled
      exact ⟨u, hu, scrambled⟩
  exact ⟨_, exec_wrreg_of_fail hu, rfl, by rw [State.complete_dev, scrambled, cellsRead_write_self wf]⟩

/-! A fault-free transport (rule R62). -/

/-- The ideal device's transport returns `OK` past the listed answers. -/
theorem statusAt_ok_of_ideal {s : State} (ideal : s.devMode = .ideal) (unlisted : s.answers = []) (k : Nat) :
    statusAt s k = .ok := by
  simp [statusAt, State.answerAt, unlisted, ideal, okAnswer]

/-- Settles O36: the write is stored, and the read that follows delivers the cell it wrote. -/
theorem writeThenReadReturnsTheValue : Obligations.WriteThenReadReturnsTheValue := by
  intro a v s ideal wf unlisted
  have ok := statusAt_ok_of_ideal ideal unlisted
  obtain ⟨-, t, ht, -, -, ran⟩ := RegisterAccess.writeRegisterRuns a v s
  obtain ⟨t', ht', stored⟩ := exec_wrreg_dev_of_ok (a := a) (d := v) ideal (ok 0) (ok 1)
  obtain rfl : t' = t := Host.Outcome.next.inj (ht'.symm.trans ht)
  have wrote := ran (ok 0) (ok 1)
  have ideal' : t'.devMode = .ideal := wrote.devMode.trans ideal
  have ok' := statusAt_ok_of_ideal ideal' (by rw [wrote.answers, unlisted, List.drop_nil])
  obtain ⟨-, u, hu, -, -, read⟩ := RegisterAccess.readRegisterRuns a t'
  refine ⟨t', u, ht, hu, ?_⟩
  rw [(read (ok' 0) (ok' 1)).resp, deliveredAt_of_written ideal' wf stored]

theorem toNat_dataAddr (p : Params) : p.dataAddr.toNat = p.dataBase.val :=
  Nat.mod_eq_of_lt (by have := p.dataBase.isLt; omega)

/-- Settles O37: the burst fills the buffer with what the ideal device delivers from `DATA_BASE` upward. -/
theorem idealBurstReadsNineRegisters : Obligations.IdealBurstReadsNineRegisters := by
  intro s ideal unlisted
  have ok := statusAt_ok_of_ideal ideal unlisted
  obtain ⟨-, t, ht, -, -, ran⟩ := Burst.burstRuns s
  refine ⟨t, ht, ?_⟩
  rw [(ran (ok 0) (ok 1)).rx, deliveredAt_ideal ideal, toNat_dataAddr]
  rfl

end Sys2Proof.Device
end

section
/-! PROOFS. The host's moves at an idle engine (rules R24, R30, R95) and the reset state (rule R42). -/

namespace Sys2Proof.HostMoves

open Sys2Proof.Machine Sys2Proof.Safety Sys2Proof.Encoding Sys2Proof.Sequencer

/-- Settles O11: the word at the port is decoded and run; `withFetchWord` puts one there. -/
theorem stepRunsTheDecodedRequest : Obligations.StepRunsTheDecodedRequest :=
  ⟨fun _ _ _ _ => step_decoded_request,
    fun s _ w _ => step_decoded_request (s := s.presentNext (BitVec.ofNat 18 w)) rfl rfl⟩

/-- Settles O12: a word that is not reserved decodes, and S0 latches it. -/
theorem takingARequestLatchesIt : Obligations.TakingARequestLatchesIt := by
  intro s w rest idle hp not_reserved
  have decodes : decode w ≠ none := fun undecoded => not_reserved ((decode_eq_none_iff w).mp undecoded)
  obtain ⟨i, hi⟩ := Option.ne_none_iff_exists'.mp decodes
  exact ⟨_, eventStep_request idle hp hi, rfl, rfl, rfl, rfl, rfl, rfl, rfl, rfl⟩

theorem step_idle {s : State} (idle : s.phase = .idle) : step s = idleStep exec s := by
  simp only [step, operationStep, idle]

/-- Settles O13: a read looks at the field and records the value it holds. -/
theorem readingNoValueIsAFault : Obligations.ReadingNoValueIsAFault := by
  intro s f rest idle hp
  have reads : step s = hostRead f { s with port := rest } := by
    rw [step_idle idle]
    simp only [idleStep, hp]
  rw [reads]
  constructor
  · intro v hv
    simp only [hostRead, hv]
  · intro no_value
    simp only [hostRead, no_value]

/-- Settles O14: the stop looks at the result only; with no move left the engine waits. -/
theorem hostStopsAndIdleEngineWaits : Obligations.HostStopsAndIdleEngineWaits := by
  constructor
  · intro s rest idle hp
    have stops : step s = hostStopUnlessSuccess { s with port := rest } := by
      rw [step_idle idle]
      simp only [idleStep, hp]
    rw [stops]
    refine ⟨fun success => ?_, fun r hr not_success => ?_, fun no_value => ?_⟩
    · simp only [hostStopUnlessSuccess, success]
    · cases r
      case success => exact absurd rfl not_success
      all_goals simp only [hostStopUnlessSuccess, hr]
    · simp only [hostStopUnlessSuccess, no_value]
  · intro s idle hp
    rw [step_idle idle]
    simp only [idleStep, hp]

/-- Settles O15: the reset values, field by field. -/
theorem resetLeavesTheEngineIdle : Obligations.ResetLeavesTheEngineIdle := ⟨rfl, rfl, rfl, rfl, rfl, rfl⟩

end Sys2Proof.HostMoves
end

section
/-! PROOFS. The frame decoder (43_burst_decode.md) as arithmetic: the numbers that the reconstructions and the sign
extension give, from which every statement about their bits and ranges follows. -/

namespace Sys2Proof.Decoder

open Sys2Proof.Machine Sys2Proof.Encoding Sys2Proof.Burst

/-! The reconstructions as numbers (rules R174, R175). -/

/-- A shifted word above a smaller one does not overlap it. -/
theorem shiftLeft_or_eq_add {x y n : Nat} (h : y < 2 ^ n) : x <<< n ||| y = x * 2 ^ n + y := by
  rw [← Nat.shiftLeft_add_eq_or_of_lt h, Nat.shiftLeft_eq]

theorem toNat_zext32_shiftLeft (b : Byte) {n : Nat} (h : n ≤ 24) : (zext32 b <<< n).toNat = b.toNat <<< n := by
  have hb := b.isLt
  have fits : b.toNat * 2 ^ n < 2 ^ 32 :=
    calc b.toNat * 2 ^ n < 2 ^ 8 * 2 ^ n := Nat.mul_lt_mul_of_pos_right hb (Nat.two_pow_pos n)
      _ = 2 ^ (8 + n) := (Nat.pow_add 2 8 n).symm
      _ ≤ 2 ^ 32 := Nat.pow_le_pow_right (by omega) (by omega)
  rw [BitVec.toNat_shiftLeft, zext32, BitVec.toNat_setWidth, Nat.mod_eq_of_lt (by omega : b.toNat < 2 ^ 32),
    Nat.shiftLeft_eq, Nat.mod_eq_of_lt fits]

theorem toNat_zext32 (b : Byte) : (zext32 b).toNat = b.toNat := by
  have hb := b.isLt
  rw [zext32, BitVec.toNat_setWidth, Nat.mod_eq_of_lt (by omega)]

theorem toNat_zext32_upper_half (b : Byte) : (zext32 b >>> 4).toNat = b.toNat / 16 := by
  rw [BitVec.toNat_ushiftRight, toNat_zext32, Nat.shiftRight_eq_div_pow]

/-- Three bytes side by side, most significant first. -/
theorem toNat_three_bytes (b0 b1 : Byte) (c : Word32) (h : c.toNat < 256) :
    ((zext32 b0 <<< 16) ||| (zext32 b1 <<< 8) ||| c).toNat = 65536 * b0.toNat + 256 * b1.toNat + c.toNat := by
  have h1 := b1.isLt
  rw [BitVec.toNat_or, BitVec.toNat_or, toNat_zext32_shiftLeft b0 (by omega), toNat_zext32_shiftLeft b1 (by omega),
    Nat.or_assoc, shiftLeft_or_eq_add (n := 8) h, shiftLeft_or_eq_add (n := 16) (by omega)]
  omega

theorem toNat_recon (b0 b1 b2 : Byte) :
    (recon b0 b1 b2).toNat = 4096 * b0.toNat + 16 * b1.toNat + b2.toNat / 16 := by
  have h2 := b2.isLt
  rw [recon, BitVec.toNat_ushiftRight, toNat_three_bytes b0 b1 _ (by rwa [toNat_zext32]), toNat_zext32,
    Nat.shiftRight_eq_div_pow]
  omega

theorem toNat_reconLiteral (b0 b1 b2 : Byte) :
    (reconLiteral b0 b1 b2).toNat = 65536 * b0.toNat + 256 * b1.toNat + b2.toNat / 16 := by
  have h2 := b2.isLt
  have fits : (zext32 b2 >>> 4).toNat < 256 := by
    rw [toNat_zext32_upper_half]
    omega
  rw [reconLiteral, toNat_three_bytes b0 b1 _ fits, toNat_zext32_upper_half]

theorem toNat_recon_lt (b0 b1 b2 : Byte) : (recon b0 b1 b2).toNat < 2 ^ 20 := by
  have h0 := b0.isLt
  have h1 := b1.isLt
  have h2 := b2.isLt
  rw [toNat_recon]
  omega

theorem toNat_upper_half (b : Byte) : (b.extractLsb' 4 4).toNat = b.toNat / 16 := by
  have hb := b.isLt
  rw [BitVec.extractLsb'_toNat, Nat.shiftRight_eq_div_pow]
  omega

/-- Settles O39: the three forms are one number. -/
theorem reconstructionBits : Obligations.ReconstructionBits := by
  intro b0 b1 b2
  have h1 := b1.isLt
  have h2 := b2.isLt
  constructor <;> apply BitVec.eq_of_toNat_eq <;> rw [toNat_recon]
  · rw [toNat_append_eq_add, toNat_append_eq_add, toNat_append_eq_add, toNat_upper_half, BitVec.toNat_zero]
    omega
  · rw [BitVec.toNat_or, BitVec.toNat_or, toNat_zext32_shiftLeft b0 (by omega), toNat_zext32_shiftLeft b1 (by omega),
      toNat_zext32_upper_half, Nat.or_assoc, shiftLeft_or_eq_add (n := 4) (by omega),
      shiftLeft_or_eq_add (n := 12) (by omega)]
    omega

/-! The sign extension as a number (rule R176). -/

theorem signBit_eq (u : Word32) : u.getLsbD 19 = decide (u.toNat / 2 ^ 19 % 2 = 1) :=
  Nat.testBit_eq_decide_div_mod_eq

theorem signBit_iff {u : Word32} (h : u.toNat < 2 ^ 20) : u.getLsbD 19 = true ↔ 2 ^ 19 ≤ u.toNat := by
  rw [signBit_eq, decide_eq_true_eq]
  omega

theorem toNat_and_signMask (u : Word32) : (u &&& 0x7FFFF#32).toNat = u.toNat % 2 ^ 19 :=
  Nat.and_two_pow_sub_one_eq_mod u.toNat 19

/-- A word below `2^31` is its own number. -/
theorem toInt_eq_toNat {u : Word32} (h : u.toNat < 2 ^ 31) : u.toInt = u.toNat := by
  rw [BitVec.toInt_eq_toNat_cond, if_pos (by omega)]

theorem toInt_sx20_of_sign_set {u : Word32} (h : u.getLsbD 19 = true) :
    (sx20 u).toInt = ((u &&& 0x7FFFF#32).toNat : Int) - 0x80000 := by
  have low : (u &&& 0x7FFFF#32).toNat < 2 ^ 19 := by
    rw [toNat_and_signMask]
    omega
  have bias : (0x80000#32 : Word32).toInt = 0x80000 := rfl
  rw [sx20_of_sign_set h]
  change ((u &&& 0x7FFFF#32) - 0x80000#32).toInt = _
  rw [BitVec.toInt_sub, toInt_eq_toNat (by omega), bias]
  exact Int.bmod_eq_of_le (by omega) (by omega)

theorem toInt_sx20 {u : Word32} (h : u.toNat < 2 ^ 20) :
    (sx20 u).toInt = if 2 ^ 19 ≤ u.toNat then (u.toNat : Int) - 2 ^ 20 else (u.toNat : Int) := by
  split
  · rename_i negative
    rw [toInt_sx20_of_sign_set ((signBit_iff h).mpr negative), toNat_and_signMask]
    omega
  · rename_i positive
    have clear : u.getLsbD 19 = false := Bool.eq_false_iff.mpr fun set => positive ((signBit_iff h).mp set)
    rw [sx20_of_sign_clear clear, toInt_eq_toNat (by omega)]

theorem toInt_sx20_range {u : Word32} (h : u.toNat < 2 ^ 20) : -524288 ≤ (sx20 u).toInt ∧ (sx20 u).toInt ≤ 524287 := by
  rw [toInt_sx20 h]
  split <;> omega

theorem sx20_eq_signExtend {u : Word32} (h : u.toNat < 2 ^ 20) : sx20 u = (u.setWidth 20).signExtend 32 := by
  apply BitVec.eq_of_toInt_eq
  rw [toInt_sx20 h, BitVec.toInt_signExtend_of_le (by omega), BitVec.toInt_eq_toNat_cond, BitVec.toNat_setWidth,
    Nat.mod_eq_of_lt h]
  split <;> split <;> omega

/-- Where no bit is set in both words, exclusive or is a sum. -/
theorem xor_eq_add_of_and_eq_zero {n : Nat} {x y : BitVec n} (apart : x &&& y = 0#n) : x ^^^ y = x + y := by
  rw [BitVec.add_eq_or_of_and_eq_zero x y apart]
  apply BitVec.eq_of_getLsbD_eq
  intro j _
  have bit := congrArg (·.getLsbD j) apart
  simp only [BitVec.getLsbD_and, BitVec.getLsbD_zero] at bit
  rw [BitVec.getLsbD_xor, BitVec.getLsbD_or]
  revert bit
  cases x.getLsbD j <;> cases y.getLsbD j <;> decide

/-- With the sign bit set, flipping it leaves the magnitude bits. -/
theorem xor_signBit_of_set {u : Word32} (h : u.toNat < 2 ^ 20) (set : u.getLsbD 19 = true) :
    u ^^^ 0x80000#32 = u &&& 0x7FFFF#32 := by
  have apart : (u &&& 0x7FFFF#32) &&& 0x80000#32 = 0#32 := by
    rw [BitVec.and_assoc]
    exact BitVec.and_zero
  have whole : u = (u &&& 0x7FFFF#32) ^^^ 0x80000#32 := by
    have large := (signBit_iff h).mp set
    rw [xor_eq_add_of_and_eq_zero apart]
    apply BitVec.eq_of_toNat_eq
    rw [BitVec.toNat_add_of_and_eq_zero apart, toNat_and_signMask, BitVec.toNat_ofNat]
    omega
  conv_lhs => rw [whole]
  rw [BitVec.xor_assoc, BitVec.xor_self, BitVec.xor_zero]

/-- With the sign bit clear, flipping it adds the bias. -/
theorem xor_signBit_of_clear {u : Word32} (clear : u.getLsbD 19 = false) : u ^^^ 0x80000#32 = u + 0x80000#32 := by
  have apart := BitVec.and_twoPow u 19
  rw [clear] at apart
  exact xor_eq_add_of_and_eq_zero apart

theorem sx20_eq_xor_sub {u : Word32} (h : u.toNat < 2 ^ 20) : sx20 u = (u ^^^ 0x80000#32) - 0x80000#32 := by
  cases sign : u.getLsbD 19
  · rw [sx20_of_sign_clear sign, xor_signBit_of_clear sign, BitVec.add_sub_cancel]
  · rw [sx20_of_sign_set sign, xor_signBit_of_set h sign]
    rfl

/-- Settles O41: each form is compared with the number `toInt_sx20` gives. -/
theorem signExtensionForms : Obligations.SignExtensionForms := by
  refine fun u h => ⟨?_, sx20_eq_signExtend h, toInt_sx20 h, sx20_eq_xor_sub h⟩
  split
  · rename_i set
    exact toInt_sx20_of_sign_set set
  · rename_i not_set
    rw [sx20_of_sign_clear (Bool.eq_false_iff.mpr not_set), toInt_eq_toNat (by omega)]

/-- Settles O42: the sample is the low 20 bits of the reconstruction, and the upper 20 of the left-justified word. -/
theorem axisIsTheSignExtendedSample : Obligations.AxisIsTheSignExtendedSample := by
  intro b0 b1 b2
  have h1 := b1.isLt
  have h2 := b2.isLt
  have small := toNat_recon_lt b0 b1 b2
  constructor
  · rw [sx20_eq_signExtend small]
    congr 1
    apply BitVec.eq_of_toNat_eq
    rw [BitVec.toNat_setWidth, Nat.mod_eq_of_lt small, toNat_recon, toNat_append_eq_add, toNat_append_eq_add,
      toNat_upper_half]
    omega
  · apply BitVec.eq_of_toInt_eq
    rw [toInt_sx20 small, BitVec.toInt_sshiftRight, Int.shiftRight_eq_div_pow, BitVec.toInt_eq_toNat_cond,
      toNat_append_eq_add, toNat_append_eq_add, toNat_append_eq_add, toNat_recon, BitVec.toNat_zero]
    split <;> split <;> omega

/-! The bytes of a sample (rule R184). -/

/-- Settles O44: the padding is below the bits that the shift keeps. -/
theorem paddingIsIgnored : Obligations.PaddingIsIgnored := by
  intro b0 b1 b2 p hp
  have shifted : ((b2 &&& 0xF0#8) ||| p).toNat / 16 = (b2 &&& 0xF0#8).toNat / 16 := by
    have dropped : p.toNat >>> 4 = 0 := by rw [Nat.shiftRight_eq_div_pow]; omega
    have h := congrArg ((b2 &&& 0xF0#8).toNat >>> 4 ||| ·) dropped
    rwa [← Nat.shiftRight_or_distrib, Nat.or_zero, Nat.shiftRight_eq_div_pow, Nat.shiftRight_eq_div_pow,
      ← BitVec.toNat_or] at h
  apply BitVec.eq_of_toNat_eq
  rw [toNat_recon, toNat_recon, shifted]

theorem toNat_recon_sampleBytes (v : Word32) :
    (recon (sampleBytes v).1 (sampleBytes v).2.1 (sampleBytes v).2.2).toNat = v.toNat % 2 ^ 20 := by
  rw [toNat_recon]
  simp only [sampleBytes, BitVec.extractLsb'_toNat, toNat_append_eq_add, Nat.shiftRight_eq_div_pow, BitVec.toNat_zero]
  omega

/-- The bytes built from a sample decode to it. -/
theorem sx20_recon_sampleBytes {v : Word32} (low : -524288 ≤ v.toInt) (high : v.toInt ≤ 524287) :
    sx20 (recon (sampleBytes v).1 (sampleBytes v).2.1 (sampleBytes v).2.2) = v := by
  have hv := v.isLt
  apply BitVec.eq_of_toInt_eq
  rw [toInt_sx20 (toNat_recon_lt _ _ _), toNat_recon_sampleBytes]
  rw [BitVec.toInt_eq_toNat_cond] at low high ⊢
  split at low <;> split <;> omega

/-- Settles O43: the reconstruction has 20 bits, and the bytes of a sample reach it. -/
theorem axisRangeIsExact : Obligations.AxisRangeIsExact := by
  constructor
  · intro b0 b1 b2
    have small := toNat_recon_lt b0 b1 b2
    exact ⟨by omega, toInt_sx20_range small⟩
  · intro v low high
    have held : (BitVec.ofInt 32 v).toInt = v := by
      rw [BitVec.toInt_ofInt]
      exact Int.bmod_eq_of_le (by omega) (by omega)
    have decoded := sx20_recon_sampleBytes (v := BitVec.ofInt 32 v) (by omega) (by omega)
    exact ⟨_, _, _, (congrArg BitVec.toInt decoded).trans held⟩

/-- Settles O46: on 20-bit values the sign extension is the number `toInt_sx20` gives. -/
theorem sampleBytesDecodeBack : Obligations.SampleBytesDecodeBack := by
  refine ⟨fun u v hu hv same => ?_, fun u v lt half => ?_, fun u hu => ⟨?_, ?_⟩, fun v => sx20_recon_sampleBytes⟩
  · have numbers := congrArg BitVec.toInt same
    rw [toInt_sx20 hu, toInt_sx20 hv] at numbers
    apply BitVec.eq_of_toNat_eq
    split at numbers <;> split at numbers <;> omega
  · rw [toInt_sx20 (by omega), toInt_sx20 (by omega)]
    split <;> split <;> omega
  · rw [sx20_eq_signExtend hu]
    apply BitVec.eq_of_getLsbD_eq
    intro j hj
    rw [BitVec.getLsbD_setWidth, BitVec.getLsbD_signExtend, if_pos hj]
    simp [hj, show j < 32 by omega]
  · have := (toInt_sx20_range hu).2
    omega

/-! The reading LITERAL (rule R175). -/

/-- In the reading LITERAL the sign test falls on bit 3 of the first byte. -/
theorem signBit_reconLiteral (b0 b1 b2 : Byte) : (reconLiteral b0 b1 b2).getLsbD 19 = b0.getLsbD 3 := by
  have h1 := b1.isLt
  have h2 := b2.isLt
  have bit : b0.getLsbD 3 = decide (b0.toNat / 2 ^ 3 % 2 = 1) := Nat.testBit_eq_decide_div_mod_eq
  rw [signBit_eq, bit, toNat_reconLiteral, decide_eq_decide]
  omega

theorem toInt_axisOf_literal (b0 b1 b2 : Byte) : (axisOf .literal b0 b1 b2).toInt =
    if b0.getLsbD 3 then ((reconLiteral b0 b1 b2 &&& 0x7FFFF#32).toNat : Int) - 0x80000
    else ((reconLiteral b0 b1 b2).toNat : Int) := by
  have h0 := b0.isLt
  have h1 := b1.isLt
  have h2 := b2.isLt
  rw [← signBit_reconLiteral b0 b1 b2]
  change (sx20 (reconLiteral b0 b1 b2)).toInt = _
  split
  · rename_i set
    exact toInt_sx20_of_sign_set set
  · rename_i not_set
    rw [sx20_of_sign_clear (Bool.eq_false_iff.mpr not_set), toInt_eq_toNat]
    rw [toNat_reconLiteral]
    omega

theorem reconLiteral_bits (b0 b1 b2 : Byte) :
    reconLiteral b0 b1 b2 = (0#8 ++ b0 ++ b1 ++ 0#4 ++ b2.extractLsb' 4 4 : BitVec 32) := by
  apply BitVec.eq_of_toNat_eq
  rw [toNat_reconLiteral, toNat_append_eq_add, toNat_append_eq_add, toNat_append_eq_add, toNat_append_eq_add,
    toNat_upper_half, BitVec.toNat_zero, BitVec.toNat_zero]
  omega

/-- Bits 7 to 4 of the reading LITERAL are zero, so no value with those bits set is reached. -/
theorem toNat_reconLiteral_mod (b0 b1 b2 : Byte) : (reconLiteral b0 b1 b2).toNat % 256 < 16 := by
  have h2 := b2.isLt
  rw [toNat_reconLiteral]
  omega

theorem reconLiteral_ne {c : Word32} (set : 16 ≤ c.toNat % 256) (b0 b1 b2 : Byte) : reconLiteral b0 b1 b2 ≠ c := by
  rintro rfl
  exact absurd (toNat_reconLiteral_mod b0 b1 b2) (by omega)

/-- Settles O40: the bits of the reading LITERAL, and what its four zero bits exclude. -/
theorem literalReconstructionBits : Obligations.LiteralReconstructionBits := by
  refine ⟨fun b0 b1 b2 => ⟨reconLiteral_bits b0 b1 b2, congrArg sx20 (reconLiteral_bits b0 b1 b2),
    toInt_axisOf_literal b0 b1 b2, reconLiteral_ne (by decide) b0 b1 b2, reconLiteral_ne (by decide) b0 b1 b2,
    ?_, ?_, ?_⟩, ?_⟩
  · have gap := toNat_reconLiteral_mod b0 b1 b2
    rw [toInt_axisOf_literal, toNat_and_signMask]
    split <;> omega
  · have gap := toNat_reconLiteral_mod b0 b1 b2
    rw [toInt_axisOf_literal, toNat_and_signMask]
    split <;> omega
  · have h0 := b0.isLt
    have h1 := b1.isLt
    rw [← BitVec.toNat_inj, ← BitVec.toNat_inj, ← BitVec.toNat_inj, toNat_reconLiteral, toNat_recon,
      BitVec.toNat_zero]
    omega
  · rw [toInt_axisOf_literal]
    decide

/-- Settles O47: the decoder's definition for each group, and the check burst of each mode. -/
theorem axisMapping : Obligations.AxisMapping :=
  ⟨fun _ _ => rfl, fun _ _ _ => ⟨rfl, rfl⟩, by decide, by decide⟩

end Sys2Proof.Decoder
end

section
/-! PROOFS. The axes a response holds (rules R22, R180): the only completion that writes axes writes sign-extended
samples. -/

namespace Sys2Proof.Invariants

open Sys2Proof.Machine Sys2Proof.Safety Sys2Proof.Decoder Sys2Proof.Exceptions

theorem respInRange_of_no_axes {r : Response} (h : r.x = none ∧ r.y = none ∧ r.z = none) : respInRange r = true := by
  obtain ⟨x, y, z⟩ := h
  simp only [respInRange, x, y, z]
  rfl

theorem respInRange_ofResult (r : Result) : respInRange (Response.ofResult r) = true := rfl

theorem axisInRange_axisOf (b0 b1 b2 : Byte) : axisInRange (some (axisOf .concatShift b0 b1 b2)) = true := by
  obtain ⟨low, high⟩ := toInt_sx20_range (toNat_recon_lt b0 b1 b2)
  exact Bool.and_eq_true_iff.mpr ⟨decide_eq_true low, decide_eq_true high⟩

theorem respInRange_burstResponse (bs : Nine Byte) : respInRange (burstResponse .concatShift bs) = true :=
  Bool.and_eq_true_iff.mpr ⟨Bool.and_eq_true_iff.mpr ⟨axisInRange_axisOf _ _ _, axisInRange_axisOf _ _ _⟩,
    axisInRange_axisOf _ _ _⟩

theorem evalOp_respInRange {i : Instr} {s t : State} (mode : s.params.recon = .concatShift)
    (h : evalOp i s = .next t) : respInRange t.resp = true := by
  obtain ⟨r, rfl, -, no_axes | ⟨-, bs, -, rfl⟩⟩ := evalOp_next h
  · exact respInRange_of_no_axes no_axes
  · rw [mode]
    exact respInRange_burstResponse bs

theorem busyStep_keeps_respInRange {s t : State} {k : TxnIndex} {p : SubPhase}
    (mode : s.params.recon = .concatShift) (hs : respInRange s.resp = true) (h : busyStep k p s = .next t) :
    respInRange t.resp = true := by
  obtain ⟨_, i, x, -, -, -, ⟨-, rfl⟩ | ⟨-, rfl⟩ | ⟨-, rfl⟩ | ⟨-, -, -, rfl⟩ | ⟨-, eval⟩ | ⟨-, rfl⟩⟩ := busyStep_next h
  · exact hs
  · rw [State.afterTransfer_eq]
    exact (s.command_frame x).resp ▸ hs
  · rw [State.afterTransfer_eq]
    exact (s.payload_frame x).resp ▸ hs
  · exact hs
  · exact evalOp_respInRange (s := s.selDeassert) mode eval
  · exact respInRange_ofResult _

/-- Settles O56: a failed operation writes no axes, and a completed one those of the normative reconstruction. -/
theorem responseAxesStayInRange : Obligations.ResponseAxesStayInRange := by
  intro s t mode hs h
  rcases step_cases h with ⟨_, _, -, row⟩ | ⟨-, ⟨_, _, _, -, -, run⟩ | ⟨_, _, rfl⟩⟩
  · exact busyStep_keeps_respInRange mode hs row
  · rcases exec_fails_or_evaluates run with failed | ⟨v, params, eval⟩
    · rw [failed]
      exact respInRange_ofResult _
    · exact evalOp_respInRange (params.symm ▸ mode) eval
  · exact hs

end Sys2Proof.Invariants
end

section
/-! PROOFS. The composites and their expansions (rule R96): the host program latches other requests, which is no input
of an operation, and so proceeds in lockstep with the composite. -/

namespace Sys2Proof.Expansions

open Sys2Proof.Machine Sys2Proof.Safety Sys2Proof.Encoding

/-- The composite that ended in `t` and a host program that answered `o` agree (rule R96). -/
def Agrees (t : State) (o : Option (Result × State)) : Prop :=
  ∃ r u, o = some (r, u) ∧ t.trace = u.trace ∧ t.resp.result = some r ∧ SameInputs t u

/-- A composite and its expansion that ran alike agree when each reports the same result. -/
theorem agrees_of_sameRun {α : Type} {s s' u u' : State} {a a' : α} {r : Result} {p p' : Response}
    (ran : SameRun s s' (a, u) (a', u')) (start : s.trace = s'.trace) (result : p.result = some r) :
    Agrees (u.complete p) (some (r, u'.complete p')) :=
  ⟨r, _, rfl, trace_eq_of_sameRun ran start, result, ran.alike.inputs⟩

theorem sameInputs_takeRequest (s : State) (w : ReqWord) : SameInputs s (s.takeRequest w) := ⟨rfl, rfl, rfl, rfl, rfl⟩

section set
variable {s t u : State} {a : RegAddr} {v : Byte}

theorem expandSet_of_write_fail (h : request (.wrreg a v) s = .next t) (failed : t.resp.result ≠ some .success) :
    expandSet a v s = some (.busError, t) := by
  simp only [expandSet, h, if_neg failed]

theorem expandSet_of_read_fail (h : request (.wrreg a v) s = .next t) (ok : t.resp.result = some .success)
    (h' : request (.rdreg a) t = .next u) (failed : u.resp.result ≠ some .success) :
    expandSet a v s = some (.busError, u) := by
  simp only [expandSet, h, if_pos ok, h', if_neg failed]

theorem expandSet_of_read_ok {b : Byte} (h : request (.wrreg a v) s = .next t) (ok : t.resp.result = some .success)
    (h' : request (.rdreg a) t = .next u) (resp : u.resp = Response.ofByte b) :
    expandSet a v s = some (readbackResult v b, u) := by
  by_cases hb : b = v <;> simp [expandSet, h, ok, h', resp, Response.ofByte, readbackResult, hb]

end set

/-- `SetVerify` and the host program write, read and compare alike (rules R96, R140). -/
theorem setVerify_agrees_expandSet (s : State) (a : RegAddr) (v : Byte) :
    Agrees (s.setVerify a v) (expandSet a v s) := by
  obtain ⟨_ | _, u, u', e, e', wrote⟩ := ((sameInputs_takeRequest s (encode (.wrreg a v))).memWrite a v).outcomes
  · have write_request : request (.wrreg a v) s = .next (u'.complete (Response.ofResult .success)) :=
      exec_wrreg_of_ok e'
    have trace : u.trace = u'.trace := trace_eq_of_sameRun wrote rfl
    have inputs : SameInputs u ((u'.complete (Response.ofResult .success)).takeRequest (encode (.rdreg a))) :=
      wrote.alike.inputs
    obtain ⟨_ | b, w, w', f, f', read⟩ := (inputs.memRead a).outcomes
    · rw [State.setVerify_of_read_fail e f, expandSet_of_read_fail write_request rfl (exec_rdreg_of_none f') nofun]
      exact agrees_of_sameRun read trace rfl
    · rw [State.setVerify_of_read_ok e f, expandSet_of_read_ok write_request rfl (exec_rdreg_of_some f') rfl]
      exact agrees_of_sameRun read trace rfl
  · rw [State.setVerify_of_write_fail e, expandSet_of_write_fail (exec_wrreg_of_fail e') nofun]
    exact agrees_of_sameRun wrote rfl rfl

/-- Settles O58: the three SET operations are `SetVerify`. -/
theorem setOperationsEqualTheirExpansions : Obligations.SetOperationsEqualTheirExpansions := by
  refine fun s => ⟨fun d => ?_, fun d => ?_, ?_⟩
  · obtain ⟨r, u, agrees⟩ := setVerify_agrees_expandSet s s.params.odrAddr d
    exact ⟨_, r, u, rfl, agrees⟩
  · obtain ⟨r, u, agrees⟩ := setVerify_agrees_expandSet s s.params.rangeAddr d
    exact ⟨_, r, u, rfl, agrees⟩
  · obtain ⟨r, u, agrees⟩ := setVerify_agrees_expandSet s s.params.pwrAddr s.params.measureEnc
    exact ⟨_, r, u, rfl, agrees⟩

theorem expandChkid_of_read_fail {s t : State} (h : request (.rdreg s.params.idAddr) s = .next t)
    (failed : t.resp.result ≠ some .success) : expandChkid s = some (.identityMismatch, t) := by
  simp only [expandChkid, h, if_neg failed]

theorem expandChkid_of_read_ok {s t : State} {b : Byte} (h : request (.rdreg s.params.idAddr) s = .next t)
    (resp : t.resp = Response.ofByte b) : expandChkid s = some (identityResult s.params.idValue b, t) := by
  by_cases hb : b = s.params.idValue <;> simp [expandChkid, h, resp, Response.ofByte, identityResult, hb]

theorem memRead_params {s u : State} {a : RegAddr} {b : Option Byte} (h : s.memRead a = (b, u)) :
    u.params = s.params :=
  (congrArg (fun r => r.2.params) h.symm).trans (s.memRead_frame a).params

/-- Settles O59: CHKID and the host program read alike, and compare the byte with the same constant. -/
theorem checkIdentityEqualsItsExpansion : Obligations.CheckIdentityEqualsItsExpansion := by
  intro s
  have inputs := sameInputs_takeRequest s (encode (.rdreg s.params.idAddr))
  obtain ⟨_ | b, u, u', e, e', read⟩ := (inputs.memRead s.params.idAddr).outcomes
  · obtain ⟨r, v, expanded, agrees⟩ := agrees_of_sameRun (r := .identityMismatch)
      (p := Response.ofResult .identityMismatch) (p' := Response.ofResult .busError) read rfl rfl
    exact ⟨_, r, v, exec_chkid_of_none e,
      (expandChkid_of_read_fail (exec_rdreg_of_none e') nofun).trans expanded, agrees⟩
  · obtain ⟨r, v, expanded, agrees⟩ := agrees_of_sameRun (r := identityResult s.params.idValue b)
      (p := Response.ofResult (identityResult u.params.idValue b)) (p' := Response.ofByte b) read rfl
      (by rw [memRead_params e, Response.ofResult_result])
    exact ⟨_, r, v, exec_chkid_of_some e, (expandChkid_of_read_ok (exec_rdreg_of_some e') rfl).trans expanded, agrees⟩

end Sys2Proof.Expansions
end
